-- ==== Sys2Proof/Word.lean ====
section
/-! DEFINITION. The word types of BL0942-CORE (spec/00_scope.md R9): a byte is 8 bits, a packet field 24 bits. -/

namespace Sys2Proof

/-- A byte, an unsigned value 0..255 (R9). -/
abbrev Byte := BitVec 8

/-- The 24-bit pattern of one packet field (R22, R81). -/
abbrev Raw24 := BitVec 24

end Sys2Proof
end

