-- ==== Sys2Proof/Config.lean ====
section
/-! DEFINITION. What surrounds the block and what the spec leaves open: the parameters of spec/00_scope.md R8 as plain
data that State holds beside the block's own state (R28), and the free values, opaque constants of which no proof can
know a value. The constants the source fixes (R6, R7) are in Sys2Proof/Machine/Constants.lean. -/

namespace Sys2Proof

/-- A value of FLOAT_FMT as the spec speaks of it: a finite value is the rational it stands for, and R134 names NaN and
infinity beside the finite ones. DESIGN CHOICE (log entry 10): one NaN, and one zero. -/
inductive FloatVal where
  | finite (q : Rat)
  | infinity (negative : Bool)
  | nan
  deriving DecidableEq, Repr, Inhabited

/-- FLOAT_FMT (R8, R134, D14: OPEN). `binary p eMin eMax` holds zero and every `n * 2^e` with `|n| < 2^p` and
`eMin ≤ e ≤ eMax`; `other id` is any format whatever, whose values only the free predicate `Config.representsOpen`
knows (log entry 9). -/
inductive FloatFormat where
  | binary (precision : Nat) (eMin eMax : Int)
  | other (id : Nat)
  deriving DecidableEq, Repr

/-- ROUND (R8, R134, D14: OPEN). `nearestEven` is the recommended instance; `other id` is any rounding function, of which
only the identity on exactly representable values is known (log entry 9). -/
inductive Rounding where
  | nearestEven
  | other (id : Nat)
  deriving DecidableEq, Repr

/-- IEEE 754 binary32, the recommended FLOAT_FMT (D14). -/
def FloatFormat.binary32 : FloatFormat := .binary 24 (-149) 104

/-- Build parameters of the block (R8): fixed for a machine, changed by no step. -/
structure Params where
  /-- HDR_IDLES_CURSOR: whether recognising a header also sets the cursor to idle (D9). -/
  hdrIdlesCursor : Bool
  /-- FLOAT_FMT. -/
  format : FloatFormat
  /-- ROUND. -/
  rounding : Rounding
  deriving DecidableEq, Repr

/-- The configuration inputs CFG (R8, R28, R50): four reference constants and five attach bits, written by nothing in
the block. -/
structure HostConfig where
  iRef : FloatVal
  vRef : FloatVal
  pRef : FloatVal
  eRef : FloatVal
  attCurrent : Bool
  attVoltage : Bool
  attPower : Bool
  attFrequency : Bool
  attEnergy : Bool
  deriving DecidableEq, Repr

/-- FREE VALUE (log entry 8). The `n`-th draw of R134: the value published when the divisor is zero, NaN or infinite
(DIV0 of R8, U3: any value, never infinity, NaN or zero by fiat). -/
opaque Config.draw : Nat → FloatVal

/-- FREE VALUE (log entry 5). What a cell of BUF that nothing has written since the `n`-th RESET holds (R33, U1, U2). -/
opaque Config.unspecifiedCell : Nat → Nat → Byte

/-- FREE VALUE (log entry 7). What CSUM holds after the `n`-th RESET operation (R33, R220, U1). -/
opaque Config.unspecifiedCsum : Nat → Byte

/-- FREE VALUE (log entry 9). Which rationals a format outside the binary family represents exactly (U4). -/
opaque Config.representsOpen : Nat → Rat → Bool

/-- FREE VALUE (log entry 9). What ROUND makes of a quotient the format does not represent exactly, where the rounding
or the format is not the recommended one (U4). -/
opaque Config.roundOpen : Rounding → FloatFormat → Rat → FloatVal

end Sys2Proof
end

