-- ==== Sys2Proof/Machine/Constants.lean ====
section
/-! DEFINITION. The constants the source fixes (spec/00_scope.md R6) and the sizes and positions that follow from the
wire format (R7, R22). They are the document's own literals, unaudited (R3, U12), each named once, so that a corrected
literal changes one line; they stand in this file so that a repair may correct them. -/

namespace Sys2Proof

/-- SENTINEL (R6): the header byte that starts a packet. -/
abbrev Config.sentinel : Byte := 0x55

/-- CMD_READ (R6): the read-command byte, also the virtual command byte of the checksum. -/
abbrev Config.cmdRead : Byte := 0x58

/-- CMD_FULL (R6): the full-packet-request byte. -/
abbrev Config.cmdFull : Byte := 0xAA

/-- SEED (R6): `(CMD_READ + SENTINEL) mod 256`. -/
abbrev Config.seed : Byte := Config.cmdRead + Config.sentinel

/-- CSUM_INV (R6): the XOR mask of the checksum. -/
abbrev Config.csumInv : Byte := 0xFF

/-- FREQ_NUM (R6): the numerator of the frequency computation. -/
abbrev Config.freqNum : Int := 1000000

/-- BUF_SIZE (R7): bytes in the buffer and in a packet. -/
abbrev Config.bufSize : Nat := 17

/-- FILL_SIZE (R7): the fill region is positions 0..15. -/
abbrev Config.fillSize : Nat := 16

/-- The value of WO that means "the next byte is the checksum byte" (R23). -/
abbrev Config.checkWo : BitVec 5 := 16

/-- AWAIT (R7): the value of WO that means "past the buffer, awaiting a header". -/
abbrev Config.awaitWo : BitVec 5 := 17

/-- Positions of the five fields (R22, conflict C1). -/
abbrev Config.posCurrent : Nat := 1
/-- Position of V_RMS (R22). -/
abbrev Config.posVoltage : Nat := 4
/-- Position of WATT (R22). -/
abbrev Config.posPower : Nat := 7
/-- Position of PERIOD (R22). -/
abbrev Config.posPeriod : Nat := 10
/-- Position of CF_CNT (R22). -/
abbrev Config.posEnergy : Nat := 13

/-- Format CMD (R83): the two bytes of the read trigger in sending order. -/
abbrev Config.commandFrame : List Byte := [Config.cmdRead, Config.cmdFull]

end Sys2Proof
end

