-- ==== Sys2Proof/Syntax.lean ====
section
/-! DEFINITION. The operation set of BL0942-CORE (spec/00_scope.md R5), one constructor per row of
spec/opcode_table.json. The block fetches no instruction words (R23): an operation is selected by the byte and WO, by
CUR, or by a strobe (R80), and its explicit operands are the bytes it consumes. -/

namespace Sys2Proof

/-- The twelve operations of R5. -/
inductive Instr where
  /-- FEED.STORE (R111): store the received byte in the fill region. -/
  | feedStore (b : Byte)
  /-- FEED.CHECK (R112): compare the received byte with the expected checksum. -/
  | feedCheck (b : Byte)
  /-- FEED.HDR (R113): the received byte is the sentinel; start a packet. -/
  | feedHdr
  /-- FEED.RESYNC (R114): drop a byte other than the sentinel. -/
  | feedResync (b : Byte)
  /-- PUB.G0 (R137): publish group 0, current and power. -/
  | pubG0
  /-- PUB.G1 (R138): publish group 1, voltage and frequency. -/
  | pubG1
  /-- PUB.G2 (R139): publish group 2, energy. -/
  | pubG2
  /-- PUB.IDLE (R140): nothing to publish. -/
  | pubIdle
  /-- REQ (R160): request an update. -/
  | req
  /-- TRIG (R161): send the read trigger if one is pending. -/
  | trig
  /-- TICK (R170, R171): one poll tick that drains the bytes `bs`; `[]` means the first query answered false. -/
  | tick (bs : List Byte)
  /-- RESET (R220): put the block in its initial state. -/
  | reset
  deriving DecidableEq, Repr

end Sys2Proof
end

