-- ==== Sys2Proof/WellFormed.lean ====
section
/-! DEFINITION. Which terms of Instr are operations of the spec: FEED.RESYNC never consumes the sentinel (R114), every
other operand is unrestricted (R89). -/

namespace Sys2Proof

/-- An operation with an operand its rule admits. -/
def Instr.wellFormed : Instr → Bool
  | .feedResync b => b != Config.sentinel
  | .feedStore _ => true
  | .feedCheck _ => true
  | .feedHdr => true
  | .pubG0 => true
  | .pubG1 => true
  | .pubG2 => true
  | .pubIdle => true
  | .req => true
  | .trig => true
  | .tick _ => true
  | .reset => true

end Sys2Proof
end

