-- ==== Sys2Proof/Decode.lean ====
section
/-! DEFINITION. The encodings of spec/30_encoding.md: the decode keys RXB (R84), GRP (R85), OP (R87) and INT (R93) and
the decoder over them, the packet format PKT with its checksum (R81, R82), and the encoders of both. -/

namespace Sys2Proof

/-! ## Rejections -/

/-- Why a key or a byte string is not decoded. -/
inductive DecodeError where
  /-- No row of the decode map matches the key (R84 and R85 are total, so no key is rejected so). -/
  | noRow
  /-- A byte string of another length than a packet's 17 (R90). -/
  | wrongLength (n : Nat)
  /-- The first byte is not the sentinel (R82). -/
  | noSentinel (b : Byte)
  /-- The last byte is not the checksum of the others (R82). -/
  | checksumMismatch (expected got : Byte)
  deriving DecidableEq, Repr

/-! ## Decode keys -/

/-- What selects an operation (R80, R93): a received byte with WO, the code of CUR, a strobe, or nothing (INT). -/
inductive Key where
  /-- Format RXB (R84). -/
  | rxb (wo : BitVec 5) (b : Byte)
  /-- Format GRP (R85). -/
  | grp (cur : BitVec 2)
  /-- Format OP, strobe `rst` (R87). -/
  | rst
  /-- Format OP, strobe `req` (R87). -/
  | req
  /-- Format OP, strobe `tick`, with the bytes the tick drains (R87, R171). -/
  | tick (bs : List Byte)
  /-- Format INT (R93): TRIG, which has no decode key of its own. -/
  | int
  deriving DecidableEq, Repr

/-- The operation named by a row of the decode map R84. -/
inductive FeedRow where
  | store
  | check
  | hdr
  | resync
  deriving DecidableEq, Repr

/-- The rows of decode map R84 in their order: lowest and highest WO of the class, match, mask, operation. -/
def feedRows : List (Nat × Nat × Byte × Byte × FeedRow) :=
  [(0, 15, 0x00, 0x00, .store),
   (16, 16, 0x00, 0x00, .check),
   (17, 31, Config.sentinel, 0xFF, .hdr),
   (17, 31, 0x00, 0x00, .resync)]

/-- The first row that matches `(wo, b)`: "rows are tried from the top and the first that matches is taken" (R84). -/
def firstFeedRow : List (Nat × Nat × Byte × Byte × FeedRow) → BitVec 5 → Byte → Option FeedRow
  | [], _, _ => none
  | (lo, hi, pat, mask, row) :: rest, wo, b =>
    if lo ≤ wo.toNat ∧ wo.toNat ≤ hi ∧ b &&& mask = pat then some row else firstFeedRow rest wo b

/-- The operation of a row with the received byte as its operand. -/
def FeedRow.instr (b : Byte) : FeedRow → Instr
  | .store => .feedStore b
  | .check => .feedCheck b
  | .hdr => .feedHdr
  | .resync => .feedResync b

/-- Format RXB (R84). -/
def decodeFeed (wo : BitVec 5) (b : Byte) : Except DecodeError Instr :=
  match firstFeedRow feedRows wo b with
  | some row => .ok (row.instr b)
  | none => .error .noRow

/-- Format GRP (R85): every value of the key selects an operation. -/
def decodeGroup (cur : BitVec 2) : Instr :=
  if cur = 0b00 then .pubG0
  else if cur = 0b01 then .pubG1
  else if cur = 0b10 then .pubG2
  else .pubIdle

/-- The decoder: which operation a key selects (R84, R85, R87, R93). -/
def decode : Key → Except DecodeError Instr
  | .rxb wo b => decodeFeed wo b
  | .grp cur => .ok (decodeGroup cur)
  | .rst => .ok .reset
  | .req => .ok .req
  | .tick bs => .ok (.tick bs)
  | .int => .ok .trig

/-- The operations of one step's strobes, "executed one after the other in the fixed order RESET, REQ, TICK" (R176); `bs`
is what a tick drains. -/
def decodeStrobes (rst req tick : Bool) (bs : List Byte) : List Instr :=
  (if rst then [.reset] else []) ++ (if req then [.req] else []) ++ (if tick then [.tick bs] else [])

/-- The encoder: the key that selects an operation, with one WO of the operation's class (R84): 1, the first position a
header leaves, for FEED.STORE; 16; and 17, the reachable awaiting value. -/
def encode : Instr → Key
  | .feedStore b => .rxb 1 b
  | .feedCheck b => .rxb Config.checkWo b
  | .feedHdr => .rxb Config.awaitWo Config.sentinel
  | .feedResync b => .rxb Config.awaitWo b
  | .pubG0 => .grp 0b00
  | .pubG1 => .grp 0b01
  | .pubG2 => .grp 0b10
  | .pubIdle => .grp 0b11
  | .req => .req
  | .trig => .int
  | .tick bs => .tick bs
  | .reset => .rst

/-! ## Little-endian fields -/

/-- Three bytes in arrival order as a 24-bit pattern, the first the least significant (R54, R86). -/
def le24 (lo mid hi : Byte) : Raw24 := hi ++ mid ++ lo

/-- The three bytes of a 24-bit pattern in arrival order (R81). -/
def bytesOf24 (v : Raw24) : List Byte :=
  [v.extractLsb' 0 8, v.extractLsb' 8 8, v.extractLsb' 16 8]

/-! ## Format PKT -/

/-- The five fields of a packet (R81), as their 24-bit patterns; power is read as two's complement. -/
structure Fields where
  current : Raw24
  voltage : Raw24
  power : Raw24
  period : Raw24
  energy : Raw24
  deriving DecidableEq, Repr

/-- The 15 field bytes in the order of the wire format (R81, conflict C1). -/
def fieldBytes (f : Fields) : List Byte :=
  bytesOf24 f.current ++ bytesOf24 f.voltage ++ bytesOf24 f.power ++ bytesOf24 f.period ++ bytesOf24 f.energy

/-- The sum of R82 over a packet's bytes before the checksum: the virtual command byte and all of them, modulo 256. -/
def packetSum (body : List Byte) : Byte := body.foldl (· + ·) Config.cmdRead

/-- The checksum of R82: the inverted sum. -/
def packetChecksum (body : List Byte) : Byte := packetSum body ^^^ Config.csumInv

/-- The 17 bytes of a packet with these fields (R81, R82, R92). -/
def encodePacket (f : Fields) : List Byte :=
  Config.sentinel :: fieldBytes f ++ [packetChecksum (Config.sentinel :: fieldBytes f)]

/-- The field at position `a` of a packet (R54, R81). -/
def packetField (p : List Byte) (a : Nat) : Raw24 :=
  le24 (p.getD a 0) (p.getD (a + 1) 0) (p.getD (a + 2) 0)

/-- Decode a byte string as one packet: its fields, or why it is none (R82, R90). -/
def decodePacket (p : List Byte) : Except DecodeError Fields :=
  if p.length ≠ Config.bufSize then .error (.wrongLength p.length)
  else if p.getD 0 0 ≠ Config.sentinel then .error (.noSentinel (p.getD 0 0))
  else if p.getD 16 0 ≠ packetChecksum (p.take 16) then
    .error (.checksumMismatch (packetChecksum (p.take 16)) (p.getD 16 0))
  else .ok
    { current := packetField p Config.posCurrent
      voltage := packetField p Config.posVoltage
      power := packetField p Config.posPower
      period := packetField p Config.posPeriod
      energy := packetField p Config.posEnergy }

/-! ## Words of the opcode table -/

/-- The key that a word of spec/opcode_table.json stands for. The table's words carry neither the format of the key nor
WO, so the width and the fixed bits tell them (DESIGN CHOICE, log entry 16): the 16-bit command frame of R83 is TRIG;
8 bits are the sentinel (FEED.HDR), a 2-bit cursor code with nothing above the table's field bits (GRP), or any other
received byte (FEED.RESYNC); the wider rows are FEED.STORE (16) and FEED.CHECK (24). A word of no bits, which REQ, TICK and
RESET share, names no strobe and has no key. -/
def tableKey (nbits w : Nat) : Option Key :=
  if nbits = 16 then
    if w = 0x58AA then some .int else some (.rxb 1 (BitVec.ofNat 8 w))
  else if nbits = 24 then some (.rxb Config.checkWo (BitVec.ofNat 8 w))
  else if nbits = 8 then
    if w < 16 then some (.grp (BitVec.ofNat 2 w))
    else some (.rxb Config.awaitWo (BitVec.ofNat 8 w))
  else none

/-- The operation the decoder reads from a word of the opcode table, none where the word is no key. -/
def decodeTableWord (nbits w : Nat) : Option Instr :=
  match tableKey nbits w with
  | some k => (decode k).toOption
  | none => none

end Sys2Proof
end

