-- ==== Sys2Proof/Machine/State.lean ====
section
/-! DEFINITION. The state of BL0942-CORE: its five registers (spec/10_state.md R20), the configuration beside them (R28),
and the environment its behaviour depends on (R30, spec/20_memory.md R50), all as plain data; the machine right after
reset (R33); the reasons a step can stop. -/

namespace Sys2Proof.Machine

/-- CUR, the publish cursor, with the source's names for its four values (R24). -/
inductive Cursor where
  /-- 0: group 0 is next. -/
  | awaitingGroup0
  /-- 1: group 1 is next. -/
  | awaitingGroup1
  /-- 2: group 2 is next. -/
  | awaitingGroup2
  /-- 3: packet fully published, idle. -/
  | idle
  deriving DecidableEq, Repr

/-- A FrameEvent with the information it carries (R88, R192). `evt_exp` beside Continue is "not meaningful" and is not
carried; beside ResyncError it is the sentinel. -/
inductive FrameEvent where
  /-- Continue: the byte fed was stored. -/
  | continued (got : Byte)
  /-- ChecksumOk: the byte fed equals the expected checksum. -/
  | checksumOk (expected got : Byte)
  /-- ChecksumFail: the expected and the received checksum. -/
  | checksumFail (expected got : Byte)
  /-- ResyncError: the byte dropped while awaiting a header. -/
  | resyncError (got : Byte)
  deriving DecidableEq, Repr

/-- One call of a sensor-publish collaborator (R135): the raw integer (`pub_raw`) and the scaled value (`pub_val`). -/
structure Publication where
  raw : Int
  val : FloatVal
  deriving DecidableEq, Repr

/-- What one PUB operation emits: the group and, for each of its channels, the call made or none. The calls of one group
are simultaneous (R60 item 4, D13), so they are fields, not a sequence. -/
inductive Emission where
  /-- Group 0: current, power (R137). -/
  | group0 (current power : Option Publication)
  /-- Group 1: voltage, frequency (R138). -/
  | group1 (voltage frequency : Option Publication)
  /-- Group 2: energy (R139). -/
  | group2 (energy : Option Publication)
  deriving DecidableEq, Repr

/-- One output, in the single total order of R60: a FrameEvent on EVT, a group on grp and PUB, a byte of the block on TX,
or a byte that another party wrote to the shared outbound stream (R30 item 3, R233). -/
inductive Output where
  | event (e : FrameEvent)
  | emission (e : Emission)
  | tx (b : Byte)
  | foreignTx (b : Byte)
  deriving DecidableEq, Repr

/-- What the environment does next (R11, R30, R87). -/
inductive Stimulus where
  /-- Bytes enter the inbound stream, in this order (R53, R171). -/
  | arrive (bs : List Byte)
  /-- The strobes asserted for one step while no operation is in progress (R87, R176). -/
  | strobes (rst req tick : Bool)
  /-- The host sets the configuration inputs (R222 item 2, R232). -/
  | configure (c : HostConfig)
  /-- Another party writes bytes to the shared outbound stream (R233). -/
  | foreignTx (bs : List Byte)
  /-- `req` or `tick` asserted while `busy` is 1: an interface violation (R176, U9). -/
  | overlap
  deriving DecidableEq, Repr

/-- The packet buffer as the cells written since RESET: (address, byte) pairs, addresses strictly rising. -/
abbrev Memory := List Host.Cell

/-- The state. -/
structure State where
  /-- BUF, 17 cells (R20, R21). -/
  buf : Memory
  /-- WO, the write offset, 5 bits (R20, R23). -/
  wo : BitVec 5
  /-- CSUM, the running checksum, 8 bits (R20, R25). -/
  csum : Byte
  /-- CUR, the publish cursor (R20, R24). -/
  cur : Cursor
  /-- PEND, the pending-request flag (R20, R26). -/
  pend : Bool
  /-- The build parameters HDR_IDLES_CURSOR, FLOAT_FMT, ROUND (R8). -/
  params : Params
  /-- The configuration inputs (R8, R28). -/
  cfg : HostConfig
  /-- The bytes waiting in the inbound stream, oldest first (R30 item 1, R53). -/
  rx : List Byte
  /-- Every output so far, oldest first (R50, R60). -/
  out : List Output
  /-- What the environment does next, soonest first (R11). -/
  stimuli : List Stimulus
  /-- The model's own: how many free values SCALE has drawn (log entry 12). -/
  draws : Nat
  /-- The model's own: how many RESET operations have run (log entry 12). -/
  resets : Nat
  deriving DecidableEq, Repr

/-- The block has no fault: "Nothing traps, nothing is undefined, nothing is a hint" (spec/30_encoding.md R89; R52, R197).
The type has no constructor, so no operation can raise one (safe: there is nothing to raise). -/
inductive Fault
  deriving DecidableEq, Repr

/-- Why a step has no meaning. -/
inductive Refusal where
  /-- Raised by exec for an instruction not modelled yet; safe. No arm raises it. -/
  | notModelled (mnemonic : String)
  /-- Raised by the meaning of a FEED or PUB operation in a state, or for a byte, for which the dispatch of R110 or R136 does
  not select it: the spec gives the operation no effect there, since the outside never invokes it (R5, R203). No TICK
  ever meets it. Safe (log entry 14). -/
  | notSelected (operation : String)
  /-- Raised by step when `req` or `tick` is asserted while an operation is in progress: "an interface violation which this
  spec gives no meaning and a model refuses" (R176, U9). Safe (log entry 4). -/
  | overlappingOperation
  deriving DecidableEq, Repr

/-- The build parameters at reset: HDR_IDLES_CURSOR false (R8), and the recommended instance of FLOAT_FMT and ROUND (D14;
DESIGN CHOICE, log entry 9). -/
def defaultParams : Params :=
  { hdrIdlesCursor := false, format := .binary32, rounding := .nearestEven }

/-- The configuration inputs at reset: those spec/95_test_vectors.md assumes, every channel attached and every reference
10.0 (DESIGN CHOICE, log entry 11). -/
def defaultConfig : HostConfig :=
  { iRef := .finite 10, vRef := .finite 10, pRef := .finite 10, eRef := .finite 10
    attCurrent := true, attVoltage := true, attPower := true, attFrequency := true, attEnergy := true }

/-- The machine right after reset (R33, R220): WO 17, CUR idle, PEND 0 are the spec's; no cell of BUF is written; CSUM 0 is
the model's choice (DESIGN CHOICE, log entry 6); the environment has done nothing yet (log entry 1). -/
def State.reset : State :=
  { buf := [], wo := 17, csum := 0, cur := .idle, pend := false
    params := defaultParams, cfg := defaultConfig
    rx := [], out := [], stimuli := [], draws := 0, resets := 0 }

end Sys2Proof.Machine
end

