-- ==== Sys2Proof/Machine/Ops.lean ====
section
/-! DEFINITION. The named operations over the packet buffer, the output ports and the streams, and the sequencing of
operations. Raising an error event is `State.present`: it "does not abort the operation and transfers no control"
(spec/00_scope.md R10; R197), so there is no exception entry and no return beside it. -/

namespace Sys2Proof.Machine

/-! ## The packet buffer -/

/-- The byte written to an address, none where nothing was written. -/
def Memory.find : Memory → Nat → Option Byte
  | [], _ => none
  | (k, v) :: rest, a => if k = a then some v else Memory.find rest a

/-- Write one byte, keeping the addresses strictly rising. -/
def Memory.write : Memory → Nat → Byte → Memory
  | [], a, v => [(a, v)]
  | (k, w) :: rest, a, v =>
    if a < k then (a, v) :: (k, w) :: rest
    else if a = k then (a, v) :: rest
    else (k, w) :: Memory.write rest a v

/-- Every address of the list is above `lo`, and they rise strictly. -/
def Memory.risesFrom : Nat → Memory → Bool
  | _, [] => true
  | lo, (k, _) :: rest => decide (lo ≤ k) && Memory.risesFrom (k + 1) rest

/-- The canonical form: addresses strictly rising and inside the BUF space, 0..16 (R50). No entry can equal what an unlisted
address reads as, because that is a free value (log entry 5). -/
def Memory.wf (m : Memory) : Bool :=
  Memory.risesFrom 0 m && m.all (fun c => decide (c.1 < Config.bufSize))

/-- `BUF[a]` (R10): the byte written since RESET, else the cell's unspecified value (R33, U1; log entry 5). -/
def State.cell (s : State) (a : Nat) : Byte :=
  (s.buf.find a).getD (Config.unspecifiedCell s.resets a)

/-- `BUF[a] <- v` (R10). -/
def State.writeCell (s : State) (a : Nat) (v : Byte) : State :=
  { s with buf := s.buf.write a v }

/-! ## The cursor's codes (R24, R85) -/

/-- The 2-bit value of CUR. -/
def Cursor.code : Cursor → BitVec 2
  | .awaitingGroup0 => 0
  | .awaitingGroup1 => 1
  | .awaitingGroup2 => 2
  | .idle => 3

/-- The cursor a 2-bit value stands for; none is illegal (R24). -/
def Cursor.ofCode (c : BitVec 2) : Cursor :=
  if c = 0 then .awaitingGroup0
  else if c = 1 then .awaitingGroup1
  else if c = 2 then .awaitingGroup2
  else .idle

/-! ## Output ports -/

/-- `emit` and `raise` (R10): present a FrameEvent on EVT. Nothing is recorded in the block and control goes on (R27,
R197). -/
def State.present (s : State) (e : FrameEvent) : State :=
  { s with out := s.out ++ [.event e] }

/-- `TxWrite` of each byte in order (R10); the write primitive always accepts (D19). -/
def State.transmit (s : State) (bs : List Byte) : State :=
  { s with out := s.out ++ bs.map Output.tx }

/-- Present a group with its calls; `emitted` is whether `advance()` answers `Some(g)` (R135). -/
def State.emitGroup (s : State) (emitted : Bool) (e : Emission) : State :=
  if emitted then { s with out := s.out ++ [.emission e] } else s

/-! ## The inbound stream (R53) -/

/-- `RxAvail()`: whether a byte waits; no side effect. -/
def State.rxAvail (s : State) : Bool := !s.rx.isEmpty

/-- `RxRead()`: remove and return the oldest byte; called only where `RxAvail()` answers true. -/
def State.rxRead (s : State) : Option (Byte × State) :=
  match s.rx with
  | [] => none
  | b :: rest => some (b, { s with rx := rest })

/-! ## Sequencing -/

/-- What an operation answers. -/
abbrev Result := Host.Outcome State Fault Refusal

/-- One operation, then another on the state it leaves: "one operation completes before the next begins" (R10, R11). -/
def andThen (r : Result) (f : State → Result) : Result :=
  match r with
  | .next s => f s
  | .fault x => .fault x
  | .refused x => .refused x

/-- Operations one after the other in the order of the list (R60, R176). -/
def runInOrder (run : Instr → State → Result) : List Instr → State → Result
  | [], s => .next s
  | i :: rest, s => andThen (run i s) (runInOrder run rest)

end Sys2Proof.Machine
end

