-- ==== Sys2Proof/Machine/Reset.lean ====
section
/-! DEFINITION. RESET (spec/70_reset_and_hazards.md R220). -/

namespace Sys2Proof.Machine

/-- RESET (R220): WO, CUR and PEND take their reset values; CSUM and every cell of BUF become unspecified, whatever they
held: CSUM a free value, every cell unwritten (log entries 5 and 7). The inbound stream and the configuration are not
touched (corner cases (b), (d)), nothing is sent, raised or published. -/
def execReset (s : State) : Result :=
  .next { s with
    wo := Config.awaitWo
    cur := .idle
    pend := false
    csum := Config.unspecifiedCsum (s.resets + 1)
    buf := []
    resets := s.resets + 1 }

end Sys2Proof.Machine
end

