-- ==== Sys2Proof/Machine/Flags.lean ====
section
/-! DEFINITION. The block has no condition codes (spec/10_state.md R27). What stands in their place: the checksum
accumulator's arithmetic (spec/40_frame_assembler.md R115), the numeric codes of the FrameEvents (R88) and of the groups
(R51). -/

namespace Sys2Proof.Machine

/-- `(CSUM + b) mod 256`: unsigned, 8 bits, wrap-around, the carry discarded (R111, R115). -/
def accumulate (csum b : Byte) : Byte := csum + b

/-- The expected checksum, `CSUM xor 0xFF` (R112, R115). -/
def expectedChecksum (csum : Byte) : Byte := csum ^^^ Config.csumInv

/-- `evt_code` (R88, D11). -/
def FrameEvent.code : FrameEvent → BitVec 2
  | .continued _ => 0b00
  | .checksumOk _ _ => 0b01
  | .checksumFail _ _ => 0b10
  | .resyncError _ => 0b11

/-- `evt_exp` (R88): not meaningful beside Continue. -/
def FrameEvent.expected : FrameEvent → Option Byte
  | .continued _ => none
  | .checksumOk e _ => some e
  | .checksumFail e _ => some e
  | .resyncError _ => some Config.sentinel

/-- `evt_got` (R88): the byte fed. -/
def FrameEvent.got : FrameEvent → Byte
  | .continued b => b
  | .checksumOk _ b => b
  | .checksumFail _ b => b
  | .resyncError b => b

/-- "Bit 1 of the code is 'this is an error'" (R88). -/
def FrameEvent.isError (e : FrameEvent) : Bool := e.code.getLsbD 1

/-- `grp_id` (R51, R85). -/
def Emission.groupId : Emission → BitVec 2
  | .group0 _ _ => 0
  | .group1 _ _ => 1
  | .group2 _ => 2

end Sys2Proof.Machine
end

