-- ==== Sys2Proof/Machine/Assembler.lean ====
section
/-! DEFINITION. The Frame Assembler (spec/40_frame_assembler.md): FEED.STORE, FEED.CHECK, FEED.HDR, FEED.RESYNC and the
dispatch FEED. -/

namespace Sys2Proof.Machine

/-- FEED.STORE (R111), selected when `WO <= 15`. -/
def execFeedStore (b : Byte) (s : State) : Result :=
  if s.wo.toNat < Config.fillSize then
    .next (({ s.writeCell s.wo.toNat b with
      wo := s.wo + 1
      csum := accumulate s.csum b }).present (.continued b))
  else .refused (.notSelected "FEED.STORE")

/-- FEED.CHECK (R112), selected when `WO = 16`. The byte is not stored and CSUM is not written (conflict C3, D8); CUR is
written only on a match. -/
def execFeedCheck (b : Byte) (s : State) : Result :=
  if s.wo = Config.checkWo then
    if b = expectedChecksum s.csum then
      .next (({ s with wo := Config.awaitWo, cur := .awaitingGroup0 }).present
        (.checksumOk (expectedChecksum s.csum) b))
    else
      .next (({ s with wo := Config.awaitWo }).present (.checksumFail (expectedChecksum s.csum) b))
  else .refused (.notSelected "FEED.CHECK")

/-- FEED.HDR (R113), selected when `WO >= 17` and the byte is the sentinel. CUR is written only under the parameter
HDR_IDLES_CURSOR (D9). -/
def execFeedHdr (s : State) : Result :=
  if Config.awaitWo.toNat ≤ s.wo.toNat then
    .next (({ s.writeCell 0 Config.sentinel with
      wo := 1
      csum := Config.seed
      cur := if s.params.hdrIdlesCursor then .idle else s.cur }).present (.continued Config.sentinel))
  else .refused (.notSelected "FEED.HDR")

/-- FEED.RESYNC (R114), selected when `WO >= 17` and the byte is not the sentinel. -/
def execFeedResync (b : Byte) (s : State) : Result :=
  if Config.awaitWo.toNat ≤ s.wo.toNat ∧ b ≠ Config.sentinel then .next (s.present (.resyncError b))
  else .refused (.notSelected "FEED.RESYNC")

/-- `FEED(b)` (R110): "1. If ... 2. Else if ... 3. Else ...". -/
def feed (b : Byte) (s : State) : Result :=
  if s.wo.toNat < Config.fillSize then execFeedStore b s
  else if s.wo.toNat = Config.fillSize then execFeedCheck b s
  else if b = Config.sentinel then execFeedHdr s
  else execFeedResync b s

/-- FEED of each byte in order (R60 item 2). -/
def feedAll : List Byte → State → Result
  | [], s => .next s
  | b :: rest, s => andThen (feed b s) (feedAll rest)

end Sys2Proof.Machine
end

