-- ==== Sys2Proof/Machine/Operands.lean ====
section
/-! DEFINITION. The operand forms of the Field Publisher: the field accessors u24 and s24 (spec/41_field_publisher.md
R131, R132; spec/30_encoding.md R86), the float format, ROUND and SCALE (R134), and one Publish call (R135). -/

namespace Sys2Proof.Machine

/-! ## Field accessors -/

/-- `MemRead(a, 3)`: three cells from position `a`, little-endian (R54). -/
def State.field (s : State) (a : Nat) : Raw24 :=
  le24 (s.cell a) (s.cell (a + 1)) (s.cell (a + 2))

/-- `u24(a)` (R131): the field zero-extended. -/
def State.u24 (s : State) (a : Nat) : Int := (s.field a).toNat

/-- `s24(a)` (R132): the field sign-extended from bit 23. -/
def State.s24 (s : State) (a : Nat) : Int := (s.field a).toInt

/-! ## FLOAT_FMT and ROUND -/

/-- The largest `e` with `2^e ≤ a / b`, for positive `a` and `b`. -/
def floorLog2 (a b : Nat) : Int :=
  let e : Int := (Nat.log2 a : Int) - (Nat.log2 b : Int)
  if b * 2 ^ e.toNat ≤ a * 2 ^ (-e).toNat then e else e - 1

/-- The exponent of the last significand bit of `a / b` in a binary format with this precision and least exponent. -/
def quantum (precision : Nat) (eMin : Int) (a b : Nat) : Int :=
  max (floorLog2 a b - ((precision : Int) - 1)) eMin

/-- `(a / b) / 2^k` as a numerator and a denominator. -/
def scaledBy (k : Int) (a b : Nat) : Nat × Nat :=
  (a * 2 ^ (-k).toNat, b * 2 ^ k.toNat)

/-- Whether the format holds the rational exactly (R134). -/
def represents : FloatFormat → Rat → Bool
  | .binary precision eMin eMax, q =>
    if q = 0 then true
    else
      let k := quantum precision eMin q.num.natAbs q.den
      let nd := scaledBy k q.num.natAbs q.den
      decide (k ≤ eMax) && nd.1 % nd.2 == 0
  | .other id, q => Config.representsOpen id q

/-- The integer nearest to `n / d`, ties to even. -/
def nearestEvenNat (n d : Nat) : Nat :=
  if 2 * (n % d) < d then n / d
  else if d < 2 * (n % d) then n / d + 1
  else if (n / d) % 2 = 0 then n / d
  else n / d + 1

/-- `n * 2^k` as a rational. -/
def dyadic (n : Int) (k : Int) : Rat := mkRat (n * 2 ^ k.toNat) (2 ^ (-k).toNat)

/-- Round to nearest, ties to even, in a binary format: the recommended ROUND (D14); a result beyond the largest finite
value is an infinity of its sign (PRESUMED from IEEE 754, log entry 25). -/
def roundNearestEven (precision : Nat) (eMin eMax : Int) (q : Rat) : FloatVal :=
  let k := quantum precision eMin q.num.natAbs q.den
  let nd := scaledBy k q.num.natAbs q.den
  let n := nearestEvenNat nd.1 nd.2
  if eMax < k ∨ (k = eMax ∧ 2 ^ precision ≤ n) then .infinity (decide (q < 0))
  else .finite (dyadic (if q < 0 then -(n : Int) else n) k)

/-- `ROUND(q)` (R134): the identity on values FLOAT_FMT represents exactly; otherwise the recommended instance where both
parameters are the recommended kind, and a free value where they are not (U4, log entry 9). -/
def roundTo (p : Params) (q : Rat) : FloatVal :=
  if represents p.format q then .finite q
  else
    match p.rounding, p.format with
    | .nearestEven, .binary precision eMin eMax => roundNearestEven precision eMin eMax q
    | r, f => Config.roundOpen r f q

/-! ## SCALE and Publish -/

/-- How many free values SCALE takes for a divisor: none where it is finite and not zero, otherwise one (R134, log entry 12). -/
def drawsFor : FloatVal → Nat
  | .finite q => if q = 0 then 1 else 0
  | .infinity _ => 1
  | .nan => 1

/-- `SCALE(n, d)` (R134): ROUND of the exact quotient where `d` is finite and not zero, otherwise a draw, a fresh one at each
call (U3). -/
def State.scale (s : State) (n : Int) (d : FloatVal) : FloatVal × State :=
  (match d with
    | .finite q => if q = 0 then Config.draw s.draws else roundTo s.params (n / q)
    | .infinity _ => Config.draw s.draws
    | .nan => Config.draw s.draws,
   { s with draws := s.draws + drawsFor d })

/-- `if ATT.ch: Publish(ch, raw, SCALE(n, d))` (R135): the call made, if the channel is attached. -/
def State.publish (s : State) (attached : Bool) (raw n : Int) (d : FloatVal) : Option Publication × State :=
  if attached then
    let (v, s') := s.scale n d
    (some { raw := raw, val := v }, s')
  else (none, s)

end Sys2Proof.Machine
end

