-- ==== Sys2Proof/Machine/Publisher.lean ====
section
/-! DEFINITION. The Field Publisher (spec/41_field_publisher.md): PUB.G0, PUB.G1, PUB.G2, PUB.IDLE and the dispatch
ADVANCE. In every group the cursor advances whether or not anything is emitted (R135). -/

namespace Sys2Proof.Machine

/-- PUB.G0 (R137), selected when `CUR = 0`: current unsigned over I_REF, power signed over P_REF. -/
def execPubG0 (s : State) : Result :=
  if s.cur = .awaitingGroup0 then
    let i := s.u24 Config.posCurrent
    let p := s.s24 Config.posPower
    let current := s.publish s.cfg.attCurrent i i s.cfg.iRef
    let power := current.2.publish s.cfg.attPower p p s.cfg.pRef
    .next (({ power.2 with cur := .awaitingGroup1 }).emitGroup (s.cfg.attCurrent || s.cfg.attPower)
      (.group0 current.1 power.1))
  else .refused (.notSelected "PUB.G0")

/-- PUB.G1 (R138), selected when `CUR = 1`: voltage unsigned over V_REF; frequency 1 000 000 over the raw period, which is
the raw value sent beside it. -/
def execPubG1 (s : State) : Result :=
  if s.cur = .awaitingGroup1 then
    let v := s.u24 Config.posVoltage
    let t := s.u24 Config.posPeriod
    let voltage := s.publish s.cfg.attVoltage v v s.cfg.vRef
    let frequency := voltage.2.publish s.cfg.attFrequency t Config.freqNum (.finite t)
    .next (({ frequency.2 with cur := .awaitingGroup2 }).emitGroup (s.cfg.attVoltage || s.cfg.attFrequency)
      (.group1 voltage.1 frequency.1))
  else .refused (.notSelected "PUB.G1")

/-- PUB.G2 (R139), selected when `CUR = 2`: energy unsigned over E_REF. PEND is not touched (conflict C5). -/
def execPubG2 (s : State) : Result :=
  if s.cur = .awaitingGroup2 then
    let e := s.u24 Config.posEnergy
    let energy := s.publish s.cfg.attEnergy e e s.cfg.eRef
    .next (({ energy.2 with cur := .idle }).emitGroup s.cfg.attEnergy (.group2 energy.1))
  else .refused (.notSelected "PUB.G2")

/-- PUB.IDLE (R140), selected when `CUR = 3`: no read of BUF, no Publish, CUR stays 3. -/
def execPubIdle (s : State) : Result :=
  if s.cur = .idle then .next s else .refused (.notSelected "PUB.IDLE")

/-- `ADVANCE` (R136), keyed on CUR alone: it does not look at WO, CSUM or PEND (R130). -/
def advance (s : State) : Result :=
  match s.cur with
  | .awaitingGroup0 => execPubG0 s
  | .awaitingGroup1 => execPubG1 s
  | .awaitingGroup2 => execPubG2 s
  | .idle => execPubIdle s

end Sys2Proof.Machine
end

