-- ==== Sys2Proof/Machine/Trigger.lean ====
section
/-! DEFINITION. The Read-Request Trigger (spec/42_request_trigger.md): REQ and TRIG. -/

namespace Sys2Proof.Machine

/-- REQ (R160): `PEND <- 1`, whatever it held; nothing is sent. -/
def execReq (s : State) : Result := .next { s with pend := true }

/-- TRIG (R161): if a request is pending, send `0x58` then `0xAA` and clear the flag; otherwise nothing at all. -/
def execTrig (s : State) : Result :=
  if s.pend then .next { s.transmit Config.commandFrame with pend := false } else .next s

end Sys2Proof.Machine
end

