-- ==== Sys2Proof/Machine/Tick.lean ====
section
/-! DEFINITION. The poll tick (spec/43_poll_tick.md): TICK with the bytes it drains as its operand (R171), and the same
tick as the loop over the availability query that R170 writes. -/

namespace Sys2Proof.Machine

/-- TICK (R171): `[]` means the first query answered false and ADVANCE runs; otherwise every byte is fed; TRIG is always
last. -/
def execTick (bs : List Byte) (s : State) : Result :=
  match bs with
  | [] => andThen (advance s) execTrig
  | b :: rest => andThen (feedAll (b :: rest) s) execTrig

/-- The drain of R170: read and feed a byte while the query answers true, at most `fuel` times. -/
def drainLoop : Nat → State → Result
  | 0, s => .next s
  | fuel + 1, s =>
    match s.rxRead with
    | none => .next s
    | some (b, s') => andThen (feed b s') (drainLoop fuel)

/-- TICK as R170 writes it: query, drain or ADVANCE, TRIG. No byte arrives inside the loop, so the bytes that wait bound it
(log entry 2). -/
def pollTick (s : State) : Result :=
  andThen (if s.rxAvail then drainLoop s.rx.length s else advance s) execTrig

end Sys2Proof.Machine
end

