-- ==== Sys2Proof/Machine/Dispatch.lean ====
section
/-! DEFINITION. The one dispatch from an operation to its meaning. -/

namespace Sys2Proof.Machine

def exec (i : Instr) (s : State) : Host.Outcome State Fault Refusal :=
  match i with
  | .feedStore b => Sys2Proof.Machine.execFeedStore b s
  | .feedCheck b => Sys2Proof.Machine.execFeedCheck b s
  | .feedHdr => Sys2Proof.Machine.execFeedHdr s
  | .feedResync b => Sys2Proof.Machine.execFeedResync b s
  | .pubG0 => Sys2Proof.Machine.execPubG0 s
  | .pubG1 => Sys2Proof.Machine.execPubG1 s
  | .pubG2 => Sys2Proof.Machine.execPubG2 s
  | .pubIdle => Sys2Proof.Machine.execPubIdle s
  | .req => Sys2Proof.Machine.execReq s
  | .trig => Sys2Proof.Machine.execTrig s
  | .tick bs => Sys2Proof.Machine.execTick bs s
  | .reset => Sys2Proof.Machine.execReset s

end Sys2Proof.Machine
end

