-- ==== Sys2Proof/Machine/Environment.lean ====
section
/-! DEFINITION. What the environment's next stimulus does: it selects the external operations of a step (spec/30_encoding.md
R87, spec/43_poll_tick.md R176), feeds the inbound stream, changes the configuration inputs, or writes to the shared
outbound stream; and how a key of the decoder is laid out so that the next step selects its operation. -/

namespace Sys2Proof.Machine

/-- What a step is to do: operations to run in order on a state, or a refusal. -/
inductive Fetched where
  | run (ops : List Instr) (s : State)
  | refuse (r : Refusal)
  deriving DecidableEq, Repr

/-- Take the next stimulus. A tick drains every byte that waits (R170, R171): its operand is the inbound stream's contents,
which it leaves empty. With no stimulus nothing happens (R174). -/
def fetch (s : State) : Fetched :=
  match s.stimuli with
  | [] => .run [] s
  | .arrive bs :: rest => .run [] { s with stimuli := rest, rx := s.rx ++ bs }
  | .configure c :: rest => .run [] { s with stimuli := rest, cfg := c }
  | .foreignTx bs :: rest => .run [] { s with stimuli := rest, out := s.out ++ bs.map Output.foreignTx }
  | .overlap :: _ => .refuse .overlappingOperation
  | .strobes rst req tick :: rest =>
    .run (decodeStrobes rst req tick s.rx) { s with stimuli := rest, rx := if tick then [] else s.rx }

/-- The state in which the next step selects the operation of a key, exactly and with nothing after it: the strobe is put in
front of the stimuli; for a received byte the byte waits alone and WO has the key's value; for a group nothing waits and
CUR has the key's value; a tick's TRIG finds no request pending, but for TRIG itself, whose tick is otherwise idle. -/
def placeKey (s : State) : Key → State
  | .rxb wo b => { s with wo := wo, rx := [b], pend := false, stimuli := .strobes false false true :: s.stimuli }
  | .grp cur =>
    { s with cur := Cursor.ofCode cur, rx := [], pend := false, stimuli := .strobes false false true :: s.stimuli }
  | .rst => { s with stimuli := .strobes true false false :: s.stimuli }
  | .req => { s with stimuli := .strobes false true false :: s.stimuli }
  | .tick bs => { s with rx := bs, stimuli := .strobes false false true :: s.stimuli }
  | .int => { s with cur := .idle, rx := [], pend := true, stimuli := .strobes false false true :: s.stimuli }

end Sys2Proof.Machine
end

