-- ==== Sys2Proof/Machine/Step.lean ====
section
/-! DEFINITION. One step: the environment's next stimulus, and the operations it selects, each run by exec. -/

namespace Sys2Proof.Machine

/-- One step of the machine. -/
def step (s : State) : Host.Outcome State Fault Refusal :=
  match fetch s with
  | .run ops s' => runInOrder exec ops s'
  | .refuse r => .refused r

/-- The state in which the next step runs the operation of a word of spec/opcode_table.json; unchanged where the word is no
key (log entry 17). -/
def State.withFetchWord (s : State) (nbits w : Nat) : State :=
  match tableKey nbits w with
  | some k => placeKey s k
  | none => s

end Sys2Proof.Machine
end

