-- ==== Sys2Proof/Safety.lean ====
section
/-! DEFINITION. The terms claims are stated in: views of the outputs, what an operation leaves unchanged, the invariants of
spec/10_state.md R31 and R32, the host's obligations (spec/70_reset_and_hazards.md R222), and valid packets (R82). -/

namespace Sys2Proof.Machine

/-! ## Views of the outputs -/

/-- The FrameEvents of a trace, in order (EVT). -/
def eventsOf : List Output → List FrameEvent
  | [] => []
  | .event e :: rest => e :: eventsOf rest
  | .emission _ :: rest => eventsOf rest
  | .tx _ :: rest => eventsOf rest
  | .foreignTx _ :: rest => eventsOf rest

/-- The emitted groups of a trace, in order (grp, PUB). -/
def emissionsOf : List Output → List Emission
  | [] => []
  | .event _ :: rest => emissionsOf rest
  | .emission e :: rest => e :: emissionsOf rest
  | .tx _ :: rest => emissionsOf rest
  | .foreignTx _ :: rest => emissionsOf rest

/-- The bytes the block wrote on TX, in order. -/
def blockTxOf : List Output → List Byte
  | [] => []
  | .event _ :: rest => blockTxOf rest
  | .emission _ :: rest => blockTxOf rest
  | .tx b :: rest => b :: blockTxOf rest
  | .foreignTx _ :: rest => blockTxOf rest

/-- The whole outbound stream, the other parties' bytes among the block's (R233). -/
def outboundOf : List Output → List Byte
  | [] => []
  | .event _ :: rest => outboundOf rest
  | .emission _ :: rest => outboundOf rest
  | .tx b :: rest => b :: outboundOf rest
  | .foreignTx b :: rest => b :: outboundOf rest

/-! ## Frames -/

/-- Nothing outside the block's five registers and its outputs changed: parameters, configuration, inbound stream,
stimuli (R28, R34, R220 corner (d)). -/
def SameSurroundings (s t : State) : Prop :=
  t.params = s.params ∧ t.cfg = s.cfg ∧ t.rx = s.rx ∧ t.stimuli = s.stimuli

/-- Every cell of BUF reads as before. -/
def SameBuffer (s t : State) : Prop := ∀ a, t.cell a = s.cell a

/-- Every cell of BUF but one reads as before. -/
def SameBufferBut (k : Nat) (s t : State) : Prop := ∀ a, a ≠ k → t.cell a = s.cell a

/-! ## Field values, as the rules write them -/

/-- The unsigned value of the field at position `a` (R131). -/
def unsignedField (s : State) (a : Nat) : Int :=
  (s.cell a).toNat + 256 * (s.cell (a + 1)).toNat + 65536 * (s.cell (a + 2)).toNat

/-- The two's complement value of the field at position `a` (R132). -/
def signedField (s : State) (a : Nat) : Int :=
  if (s.cell (a + 2)).getLsbD 7 then unsignedField s a - 16777216 else unsignedField s a

/-- `call` is the call R135 and R134 make for a channel: none where it is not attached; otherwise the raw integer and, for a
finite divisor other than zero, ROUND of the exact quotient (for any other divisor the value is left open). -/
def CallOf (p : Params) (attached : Bool) (raw n : Int) (d : FloatVal) (call : Option Publication) : Prop :=
  if attached then
    ∃ v, call = some { raw := raw, val := v } ∧ ∀ q : Rat, d = .finite q → q ≠ 0 → v = roundTo p (n / q)
  else call = none

/-! ## Chains of operations -/

/-- Each byte in order selects an operation by its key, and that operation runs (R84, R171). -/
def FeedChain : List Byte → State → State → Prop
  | [], s, t => t = s
  | b :: rest, s, t => ∃ i m, decode (.rxb s.wo b) = .ok i ∧ exec i s = .next m ∧ FeedChain rest m t

/-- What EVT shows for bytes that are stored: a Continue each (R111, R113). -/
def continues (bs : List Byte) : List Output := bs.map (fun b => .event (.continued b))

/-! ## Valid packets -/

/-- `valid(p)` of R82, for a byte string of a packet's length. -/
def ValidPacket (p : List Byte) : Prop :=
  p.length = 17 ∧ p.getD 0 0 = 0x55 ∧ p.getD 16 0 = packetChecksum (p.take 16)

/-! ## Invariants -/

/-- R32 item 1: `1 <= WO <= 17`. -/
def WoInRange (s : State) : Prop := 1 ≤ s.wo.toNat ∧ s.wo.toNat ≤ 17

/-- R32 item 2: while a packet is being assembled its cells are written, the first holds the sentinel, and CSUM is the sum of
the command byte and of all of them. -/
def PacketInProgress (s : State) : Prop :=
  s.wo.toNat ≤ 16 →
    s.buf.find 0 = some 0x55 ∧
    (∀ a, a < s.wo.toNat → (s.buf.find a).isSome = true) ∧
    s.csum = packetSum ((List.range s.wo.toNat).map s.cell)

/-- R32 item 3: while a group is still to be published, every cell of the fill region is written. -/
def PublishReadsWritten (s : State) : Prop :=
  s.cur ≠ .idle → ∀ a, a < 16 → (s.buf.find a).isSome = true

/-- R32 items 4 and 6: cell 16 is never written; cell 0 holds nothing or the sentinel. -/
def FixedCells (s : State) : Prop :=
  s.buf.find 16 = none ∧ (s.buf.find 0 = none ∨ s.buf.find 0 = some 0x55)

/-- The invariant of R32, with the canonical form of the buffer. -/
def Inv (s : State) : Prop :=
  WoInRange s ∧ PacketInProgress s ∧ PublishReadsWritten s ∧ FixedCells s ∧ s.buf.wf = true

/-- R226, last sentence, its part about one state: with HDR_IDLES_CURSOR true a group is pending only while the Assembler
awaits a header. -/
def NoTornPublish (s : State) : Prop :=
  s.params.hdrIdlesCursor = true → s.cur ≠ .idle → 17 ≤ s.wo.toNat

/-- Two states an observer of the outputs cannot tell apart, now or later: they agree on everything but the contents of CSUM
and of cells that no operation can read before it writes them (R32 items 3 to 5). -/
def SameToObserver (s t : State) : Prop :=
  s.wo = t.wo ∧ s.cur = t.cur ∧ s.pend = t.pend ∧ SameSurroundings s t ∧ s.out = t.out ∧ s.draws = t.draws ∧
  (s.wo.toNat ≤ 16 → s.csum = t.csum ∧ ∀ a, a < s.wo.toNat → s.cell a = t.cell a) ∧
  (s.cur ≠ .idle → ∀ a, a < 16 → s.cell a = t.cell a)

/-- The references a host must supply: finite and not zero (R8, R222 item 2). -/
def usableReference : FloatVal → Bool
  | .finite q => q != 0
  | .infinity _ => false
  | .nan => false

/-- The host's obligation on the four reference constants (R222 item 2). -/
def HostObligation (c : HostConfig) : Prop :=
  usableReference c.iRef = true ∧ usableReference c.vRef = true ∧ usableReference c.pRef = true ∧ usableReference c.eRef = true

end Sys2Proof.Machine
end

