-- ==== Sys2Proof/Laws/State.lean ====
section
/-! SUPPORT. One lemma per field per update of State: what each named operation leaves in each field. -/

namespace Sys2Proof.Machine

/-! ## writeCell -/

@[simp] theorem State.writeCell_buf (s : State) (a : Nat) (v : Byte) :
    (s.writeCell a v).buf = s.buf.write a v := rfl
@[simp] theorem State.writeCell_wo (s : State) (a : Nat) (v : Byte) :
    (s.writeCell a v).wo = s.wo := rfl
@[simp] theorem State.writeCell_csum (s : State) (a : Nat) (v : Byte) :
    (s.writeCell a v).csum = s.csum := rfl
@[simp] theorem State.writeCell_cur (s : State) (a : Nat) (v : Byte) :
    (s.writeCell a v).cur = s.cur := rfl
@[simp] theorem State.writeCell_pend (s : State) (a : Nat) (v : Byte) :
    (s.writeCell a v).pend = s.pend := rfl
@[simp] theorem State.writeCell_params (s : State) (a : Nat) (v : Byte) :
    (s.writeCell a v).params = s.params := rfl
@[simp] theorem State.writeCell_cfg (s : State) (a : Nat) (v : Byte) :
    (s.writeCell a v).cfg = s.cfg := rfl
@[simp] theorem State.writeCell_rx (s : State) (a : Nat) (v : Byte) :
    (s.writeCell a v).rx = s.rx := rfl
@[simp] theorem State.writeCell_out (s : State) (a : Nat) (v : Byte) :
    (s.writeCell a v).out = s.out := rfl
@[simp] theorem State.writeCell_stimuli (s : State) (a : Nat) (v : Byte) :
    (s.writeCell a v).stimuli = s.stimuli := rfl
@[simp] theorem State.writeCell_draws (s : State) (a : Nat) (v : Byte) :
    (s.writeCell a v).draws = s.draws := rfl
@[simp] theorem State.writeCell_resets (s : State) (a : Nat) (v : Byte) :
    (s.writeCell a v).resets = s.resets := rfl

/-! ## present -/

@[simp] theorem State.present_buf (s : State) (e : FrameEvent) :
    (s.present e).buf = s.buf := rfl
@[simp] theorem State.present_wo (s : State) (e : FrameEvent) :
    (s.present e).wo = s.wo := rfl
@[simp] theorem State.present_csum (s : State) (e : FrameEvent) :
    (s.present e).csum = s.csum := rfl
@[simp] theorem State.present_cur (s : State) (e : FrameEvent) :
    (s.present e).cur = s.cur := rfl
@[simp] theorem State.present_pend (s : State) (e : FrameEvent) :
    (s.present e).pend = s.pend := rfl
@[simp] theorem State.present_params (s : State) (e : FrameEvent) :
    (s.present e).params = s.params := rfl
@[simp] theorem State.present_cfg (s : State) (e : FrameEvent) :
    (s.present e).cfg = s.cfg := rfl
@[simp] theorem State.present_rx (s : State) (e : FrameEvent) :
    (s.present e).rx = s.rx := rfl
@[simp] theorem State.present_out (s : State) (e : FrameEvent) :
    (s.present e).out = s.out ++ [.event e] := rfl
@[simp] theorem State.present_stimuli (s : State) (e : FrameEvent) :
    (s.present e).stimuli = s.stimuli := rfl
@[simp] theorem State.present_draws (s : State) (e : FrameEvent) :
    (s.present e).draws = s.draws := rfl
@[simp] theorem State.present_resets (s : State) (e : FrameEvent) :
    (s.present e).resets = s.resets := rfl

/-! ## transmit -/

@[simp] theorem State.transmit_buf (s : State) (bs : List Byte) :
    (s.transmit bs).buf = s.buf := rfl
@[simp] theorem State.transmit_wo (s : State) (bs : List Byte) :
    (s.transmit bs).wo = s.wo := rfl
@[simp] theorem State.transmit_csum (s : State) (bs : List Byte) :
    (s.transmit bs).csum = s.csum := rfl
@[simp] theorem State.transmit_cur (s : State) (bs : List Byte) :
    (s.transmit bs).cur = s.cur := rfl
@[simp] theorem State.transmit_pend (s : State) (bs : List Byte) :
    (s.transmit bs).pend = s.pend := rfl
@[simp] theorem State.transmit_params (s : State) (bs : List Byte) :
    (s.transmit bs).params = s.params := rfl
@[simp] theorem State.transmit_cfg (s : State) (bs : List Byte) :
    (s.transmit bs).cfg = s.cfg := rfl
@[simp] theorem State.transmit_rx (s : State) (bs : List Byte) :
    (s.transmit bs).rx = s.rx := rfl
@[simp] theorem State.transmit_out (s : State) (bs : List Byte) :
    (s.transmit bs).out = s.out ++ bs.map Output.tx := rfl
@[simp] theorem State.transmit_stimuli (s : State) (bs : List Byte) :
    (s.transmit bs).stimuli = s.stimuli := rfl
@[simp] theorem State.transmit_draws (s : State) (bs : List Byte) :
    (s.transmit bs).draws = s.draws := rfl
@[simp] theorem State.transmit_resets (s : State) (bs : List Byte) :
    (s.transmit bs).resets = s.resets := rfl

/-! ## emitGroup -/

@[simp] theorem State.emitGroup_buf (s : State) (g : Bool) (e : Emission) :
    (s.emitGroup g e).buf = s.buf := by
  cases g <;> rfl
@[simp] theorem State.emitGroup_wo (s : State) (g : Bool) (e : Emission) :
    (s.emitGroup g e).wo = s.wo := by
  cases g <;> rfl
@[simp] theorem State.emitGroup_csum (s : State) (g : Bool) (e : Emission) :
    (s.emitGroup g e).csum = s.csum := by
  cases g <;> rfl
@[simp] theorem State.emitGroup_cur (s : State) (g : Bool) (e : Emission) :
    (s.emitGroup g e).cur = s.cur := by
  cases g <;> rfl
@[simp] theorem State.emitGroup_pend (s : State) (g : Bool) (e : Emission) :
    (s.emitGroup g e).pend = s.pend := by
  cases g <;> rfl
@[simp] theorem State.emitGroup_params (s : State) (g : Bool) (e : Emission) :
    (s.emitGroup g e).params = s.params := by
  cases g <;> rfl
@[simp] theorem State.emitGroup_cfg (s : State) (g : Bool) (e : Emission) :
    (s.emitGroup g e).cfg = s.cfg := by
  cases g <;> rfl
@[simp] theorem State.emitGroup_rx (s : State) (g : Bool) (e : Emission) :
    (s.emitGroup g e).rx = s.rx := by
  cases g <;> rfl
@[simp] theorem State.emitGroup_out (s : State) (g : Bool) (e : Emission) :
    (s.emitGroup g e).out = if g then s.out ++ [.emission e] else s.out := by
  cases g <;> rfl
@[simp] theorem State.emitGroup_stimuli (s : State) (g : Bool) (e : Emission) :
    (s.emitGroup g e).stimuli = s.stimuli := by
  cases g <;> rfl
@[simp] theorem State.emitGroup_draws (s : State) (g : Bool) (e : Emission) :
    (s.emitGroup g e).draws = s.draws := by
  cases g <;> rfl
@[simp] theorem State.emitGroup_resets (s : State) (g : Bool) (e : Emission) :
    (s.emitGroup g e).resets = s.resets := by
  cases g <;> rfl

/-! ## scale, publish: only the count of free values moves -/


@[simp] theorem drawsFor_finite {q : Rat} (h : q ≠ 0) : drawsFor (.finite q) = 0 := if_neg h
@[simp] theorem drawsFor_zero : drawsFor (.finite 0) = 1 := by simp [drawsFor]
@[simp] theorem drawsFor_infinity (g : Bool) : drawsFor (.infinity g) = 1 := rfl
@[simp] theorem drawsFor_nan : drawsFor .nan = 1 := rfl

@[simp] theorem State.scale_buf (s : State) (n : Int) (d : FloatVal) : (s.scale n d).2.buf = s.buf := rfl
@[simp] theorem State.scale_wo (s : State) (n : Int) (d : FloatVal) : (s.scale n d).2.wo = s.wo := rfl
@[simp] theorem State.scale_csum (s : State) (n : Int) (d : FloatVal) : (s.scale n d).2.csum = s.csum := rfl
@[simp] theorem State.scale_cur (s : State) (n : Int) (d : FloatVal) : (s.scale n d).2.cur = s.cur := rfl
@[simp] theorem State.scale_pend (s : State) (n : Int) (d : FloatVal) : (s.scale n d).2.pend = s.pend := rfl
@[simp] theorem State.scale_params (s : State) (n : Int) (d : FloatVal) : (s.scale n d).2.params = s.params := rfl
@[simp] theorem State.scale_cfg (s : State) (n : Int) (d : FloatVal) : (s.scale n d).2.cfg = s.cfg := rfl
@[simp] theorem State.scale_rx (s : State) (n : Int) (d : FloatVal) : (s.scale n d).2.rx = s.rx := rfl
@[simp] theorem State.scale_out (s : State) (n : Int) (d : FloatVal) : (s.scale n d).2.out = s.out := rfl
@[simp] theorem State.scale_stimuli (s : State) (n : Int) (d : FloatVal) : (s.scale n d).2.stimuli = s.stimuli := rfl
@[simp] theorem State.scale_resets (s : State) (n : Int) (d : FloatVal) : (s.scale n d).2.resets = s.resets := rfl
@[simp] theorem State.scale_draws (s : State) (n : Int) (d : FloatVal) :
    (s.scale n d).2.draws = s.draws + drawsFor d := rfl

@[simp] theorem State.publish_buf (s : State) (g : Bool) (raw n : Int) (d : FloatVal) :
    (s.publish g raw n d).2.buf = s.buf := by
  unfold State.publish; split <;> simp
@[simp] theorem State.publish_wo (s : State) (g : Bool) (raw n : Int) (d : FloatVal) :
    (s.publish g raw n d).2.wo = s.wo := by
  unfold State.publish; split <;> simp
@[simp] theorem State.publish_csum (s : State) (g : Bool) (raw n : Int) (d : FloatVal) :
    (s.publish g raw n d).2.csum = s.csum := by
  unfold State.publish; split <;> simp
@[simp] theorem State.publish_cur (s : State) (g : Bool) (raw n : Int) (d : FloatVal) :
    (s.publish g raw n d).2.cur = s.cur := by
  unfold State.publish; split <;> simp
@[simp] theorem State.publish_pend (s : State) (g : Bool) (raw n : Int) (d : FloatVal) :
    (s.publish g raw n d).2.pend = s.pend := by
  unfold State.publish; split <;> simp
@[simp] theorem State.publish_params (s : State) (g : Bool) (raw n : Int) (d : FloatVal) :
    (s.publish g raw n d).2.params = s.params := by
  unfold State.publish; split <;> simp
@[simp] theorem State.publish_cfg (s : State) (g : Bool) (raw n : Int) (d : FloatVal) :
    (s.publish g raw n d).2.cfg = s.cfg := by
  unfold State.publish; split <;> simp
@[simp] theorem State.publish_rx (s : State) (g : Bool) (raw n : Int) (d : FloatVal) :
    (s.publish g raw n d).2.rx = s.rx := by
  unfold State.publish; split <;> simp
@[simp] theorem State.publish_out (s : State) (g : Bool) (raw n : Int) (d : FloatVal) :
    (s.publish g raw n d).2.out = s.out := by
  unfold State.publish; split <;> simp
@[simp] theorem State.publish_stimuli (s : State) (g : Bool) (raw n : Int) (d : FloatVal) :
    (s.publish g raw n d).2.stimuli = s.stimuli := by
  unfold State.publish; split <;> simp
@[simp] theorem State.publish_resets (s : State) (g : Bool) (raw n : Int) (d : FloatVal) :
    (s.publish g raw n d).2.resets = s.resets := by
  unfold State.publish; split <;> simp

/-! ## Cells depend on the buffer and the RESET count alone -/

theorem State.cell_congr {s t : State} (hb : t.buf = s.buf) (hr : t.resets = s.resets) (a : Nat) :
    t.cell a = s.cell a := by
  simp [State.cell, hb, hr]

theorem State.field_congr {s t : State} (hb : t.buf = s.buf) (hr : t.resets = s.resets) (a : Nat) :
    t.field a = s.field a := by
  simp [State.field, State.cell_congr hb hr]

end Sys2Proof.Machine
end

