-- ==== Sys2Proof/Laws/Memory.lean ====
section
/-! SUPPORT. The laws of the packet buffer: a read after a write, and the canonical form, which every write keeps. -/

namespace Sys2Proof.Machine

theorem Memory.find_write_same (m : Memory) (a : Nat) (v : Byte) : (m.write a v).find a = some v := by
  induction m with
  | nil => simp [Memory.write, Memory.find]
  | cons c rest ih =>
    obtain ⟨k, w⟩ := c
    simp only [Memory.write]
    split
    · simp [Memory.find]
    · split
      · simp [Memory.find]
      · have h : k ≠ a := by omega
        simp [Memory.find, h, ih]

theorem Memory.find_write_other (m : Memory) {a b : Nat} (h : a ≠ b) (v : Byte) :
    (m.write a v).find b = m.find b := by
  induction m with
  | nil => simp [Memory.write, Memory.find, h]
  | cons c rest ih =>
    obtain ⟨k, w⟩ := c
    simp only [Memory.write]
    split
    · simp [Memory.find, h]
    · split
      · subst_vars
        simp [Memory.find, h]
      · simp [Memory.find, ih]

theorem Memory.find_write (m : Memory) (a b : Nat) (v : Byte) :
    (m.write a v).find b = if a = b then some v else m.find b := by
  by_cases h : a = b
  · subst h; simp [Memory.find_write_same]
  · simp [h, Memory.find_write_other m h]

theorem Memory.risesFrom_write (m : Memory) {lo a : Nat} (v : Byte) (ha : lo ≤ a)
    (h : Memory.risesFrom lo m = true) : Memory.risesFrom lo (m.write a v) = true := by
  induction m generalizing lo with
  | nil => simp [Memory.write, Memory.risesFrom, ha]
  | cons c rest ih =>
    obtain ⟨k, w⟩ := c
    simp only [Memory.risesFrom, Bool.and_eq_true, decide_eq_true_eq] at h
    simp only [Memory.write]
    split
    · simp only [Memory.risesFrom, Bool.and_eq_true, decide_eq_true_eq]
      exact ⟨ha, by omega, h.2⟩
    · split
      · subst_vars
        simp only [Memory.risesFrom, Bool.and_eq_true, decide_eq_true_eq]
        exact h
      · simp only [Memory.risesFrom, Bool.and_eq_true, decide_eq_true_eq]
        exact ⟨h.1, ih (by omega) h.2⟩

theorem Memory.inSpace_write (m : Memory) {a : Nat} (v : Byte) (ha : a < Config.bufSize)
    (h : m.all (fun c => decide (c.1 < Config.bufSize)) = true) :
    (m.write a v).all (fun c => decide (c.1 < Config.bufSize)) = true := by
  induction m with
  | nil => simpa [Memory.write] using ha
  | cons c rest ih =>
    obtain ⟨k, w⟩ := c
    simp only [List.all_cons, Bool.and_eq_true, decide_eq_true_eq] at h
    simp only [Memory.write]
    split
    · simp only [List.all_cons, Bool.and_eq_true, decide_eq_true_eq]
      exact ⟨ha, h⟩
    · split
      · simp only [List.all_cons, Bool.and_eq_true, decide_eq_true_eq]
        exact ⟨ha, h.2⟩
      · simp only [List.all_cons, Bool.and_eq_true, decide_eq_true_eq]
        exact ⟨h.1, ih h.2⟩

/-- A write inside the BUF space keeps the canonical form. -/
theorem Memory.wf_write (m : Memory) {a : Nat} (v : Byte) (ha : a < Config.bufSize) (h : m.wf = true) :
    (m.write a v).wf = true := by
  simp only [Memory.wf, Bool.and_eq_true] at h ⊢
  exact ⟨Memory.risesFrom_write m v (Nat.zero_le a) h.1, Memory.inSpace_write m v ha h.2⟩

theorem Memory.wf_nil : Memory.wf [] = true := rfl

theorem State.reset_buf_wf : State.reset.buf.wf = true := rfl

/-- `BUF[b]` after `BUF[a] <- v`. -/
theorem State.cell_writeCell (s : State) (a b : Nat) (v : Byte) :
    (s.writeCell a v).cell b = if a = b then v else s.cell b := by
  simp only [State.cell, State.writeCell_buf, State.writeCell_resets, Memory.find_write]
  split <;> simp_all

theorem State.cell_writeCell_same (s : State) (a : Nat) (v : Byte) : (s.writeCell a v).cell a = v := by
  simp [State.cell_writeCell]

theorem State.cell_writeCell_other (s : State) {a b : Nat} (h : a ≠ b) (v : Byte) :
    (s.writeCell a v).cell b = s.cell b := by
  simp [State.cell_writeCell, h]

end Sys2Proof.Machine
end

