-- ==== Sys2Proof/Laws/Operations.lean ====
section
/-! SUPPORT. What each shared operation can do, said once: when an operation of the block answers a next state and which; the
induction over the bytes of a drain; and the rule that a property kept by every operation is kept by a step. -/

namespace Sys2Proof.Machine

/-! ## Sequencing -/

@[simp] theorem andThen_next (s : State) (f : State → Result) : andThen (.next s) f = f s := rfl

theorem andThen_eq_next {r : Result} {f : State → Result} {t : State} (h : andThen r f = .next t) :
    ∃ m, r = .next m ∧ f m = .next t := by
  cases r with
  | next m => exact ⟨m, rfl, h⟩
  | fault x => cases x
  | refused x => cases h

theorem andThen_assoc (r : Result) (f g : State → Result) :
    andThen (andThen r f) g = andThen r (fun s => andThen (f s) g) := by
  cases r <;> rfl

@[simp] theorem runInOrder_nil (run : Instr → State → Result) (s : State) : runInOrder run [] s = .next s := rfl

@[simp] theorem runInOrder_cons (run : Instr → State → Result) (i : Instr) (is : List Instr) (s : State) :
    runInOrder run (i :: is) s = andThen (run i s) (runInOrder run is) := rfl

theorem runInOrder_append (run : Instr → State → Result) (is js : List Instr) (s : State) :
    runInOrder run (is ++ js) s = andThen (runInOrder run is s) (runInOrder run js) := by
  induction is generalizing s with
  | nil => rfl
  | cons i rest ih =>
    simp only [List.cons_append, runInOrder_cons, andThen_assoc]
    cases run i s <;> simp_all [andThen]

/-- A property every operation keeps is kept by a sequence of them. -/
theorem runInOrder_keeps {run : Instr → State → Result} {P : State → Prop} {is : List Instr}
    (h : ∀ i ∈ is, ∀ s t, run i s = .next t → P s → P t) :
    ∀ s t, runInOrder run is s = .next t → P s → P t := by
  induction is with
  | nil =>
    intro s t hr hp
    cases hr
    exact hp
  | cons i rest ih =>
    intro s t hr hp
    obtain ⟨m, h1, h2⟩ := andThen_eq_next hr
    exact ih (fun j hj => h j (List.mem_cons_of_mem _ hj)) m t h2 (h i List.mem_cons_self s m h1 hp)

/-! ## FEED -/

/-- The state FEED.STORE leaves (R111). -/
theorem execFeedStore_next (b : Byte) (s : State) (h : s.wo.toNat < 16) :
    execFeedStore b s = .next (({ s.writeCell s.wo.toNat b with
      wo := s.wo + 1
      csum := s.csum + b }).present (.continued b)) := by
  simp [execFeedStore, accumulate, h]

/-- The state FEED.CHECK leaves on a match (R112). -/
theorem execFeedCheck_match (b : Byte) (s : State) (h : s.wo = 16) (hb : b = expectedChecksum s.csum) :
    execFeedCheck b s = .next (({ s with wo := 17, cur := .awaitingGroup0 }).present (.checksumOk b b)) := by
  simp [execFeedCheck, h, ← hb]

/-- The state FEED.CHECK leaves otherwise (R112). -/
theorem execFeedCheck_mismatch (b : Byte) (s : State) (h : s.wo = 16) (hb : b ≠ expectedChecksum s.csum) :
    execFeedCheck b s =
      .next (({ s with wo := 17 }).present (.checksumFail (expectedChecksum s.csum) b)) := by
  simp [execFeedCheck, h, hb]

/-- The state FEED.HDR leaves (R113). -/
theorem execFeedHdr_next (s : State) (h : 17 ≤ s.wo.toNat) :
    execFeedHdr s = .next (({ s.writeCell 0 Config.sentinel with
      wo := 1
      csum := Config.seed
      cur := if s.params.hdrIdlesCursor then .idle else s.cur }).present (.continued Config.sentinel)) := by
  simp [execFeedHdr, h]

/-- The state FEED.RESYNC leaves (R114). -/
theorem execFeedResync_next (b : Byte) (s : State) (h : 17 ≤ s.wo.toNat) (hb : b ≠ Config.sentinel) :
    execFeedResync b s = .next (s.present (.resyncError b)) := by
  exact if_pos ⟨h, hb⟩

/-- Everything one FEED can do (R110): it stores, it accepts, it rejects, it starts a packet, or it drops. -/
theorem feed_cases (b : Byte) (s : State) :
    (s.wo.toNat < 16 ∧ feed b s = .next (({ s.writeCell s.wo.toNat b with
        wo := s.wo + 1, csum := s.csum + b }).present (.continued b))) ∨
    (s.wo = 16 ∧ b = expectedChecksum s.csum ∧
      feed b s = .next (({ s with wo := 17, cur := .awaitingGroup0 }).present (.checksumOk b b))) ∨
    (s.wo = 16 ∧ b ≠ expectedChecksum s.csum ∧
      feed b s = .next (({ s with wo := 17 }).present (.checksumFail (expectedChecksum s.csum) b))) ∨
    (17 ≤ s.wo.toNat ∧ b = Config.sentinel ∧ feed b s = .next (({ s.writeCell 0 Config.sentinel with
        wo := 1, csum := Config.seed
        cur := if s.params.hdrIdlesCursor then .idle else s.cur }).present (.continued Config.sentinel))) ∨
    (17 ≤ s.wo.toNat ∧ b ≠ Config.sentinel ∧ feed b s = .next (s.present (.resyncError b))) := by
  by_cases h1 : s.wo.toNat < 16
  · exact .inl ⟨h1, by simpa [feed, h1] using execFeedStore_next b s h1⟩
  · by_cases h2 : s.wo.toNat = 16
    · have hw : s.wo = 16 := BitVec.eq_of_toNat_eq h2
      by_cases hb : b = expectedChecksum s.csum
      · exact .inr (.inl ⟨hw, hb, by simpa [feed, h2] using execFeedCheck_match b s hw hb⟩)
      · exact .inr (.inr (.inl ⟨hw, hb, by simpa [feed, h2] using execFeedCheck_mismatch b s hw hb⟩))
    · have h3 : 17 ≤ s.wo.toNat := by omega
      by_cases hb : b = Config.sentinel
      · exact .inr (.inr (.inr (.inl ⟨h3, hb, by
          have h := execFeedHdr_next s h3
          simpa only [feed, if_neg h1, if_neg h2, if_pos hb] using h⟩)))
      · exact .inr (.inr (.inr (.inr ⟨h3, hb, by
          have h := execFeedResync_next b s h3 hb
          simpa only [feed, if_neg h1, if_neg h2, if_neg hb] using h⟩)))

/-- FEED never fails to complete (R110: "it is total on (WO, b)"). -/
theorem feed_completes (b : Byte) (s : State) : ∃ t, feed b s = .next t := by
  rcases feed_cases b s with ⟨-, h⟩ | ⟨-, -, h⟩ | ⟨-, -, h⟩ | ⟨-, -, h⟩ | ⟨-, -, h⟩ <;> exact ⟨_, h⟩

/-- What no FEED touches: PEND, the surroundings, the counts of free values (R34). -/
theorem feed_frame {b : Byte} {s t : State} (h : feed b s = .next t) :
    t.pend = s.pend ∧ t.params = s.params ∧ t.cfg = s.cfg ∧ t.rx = s.rx ∧ t.stimuli = s.stimuli ∧
      t.draws = s.draws ∧ t.resets = s.resets := by
  rcases feed_cases b s with ⟨-, e⟩ | ⟨-, -, e⟩ | ⟨-, -, e⟩ | ⟨-, -, e⟩ | ⟨-, -, e⟩ <;>
    (rw [e] at h; cases h; simp)

/-- Each FEED presents exactly one FrameEvent, which carries the byte (R88, R196). -/
theorem feed_out {b : Byte} {s t : State} (h : feed b s = .next t) :
    ∃ e : FrameEvent, e.got = b ∧ t.out = s.out ++ [.event e] := by
  rcases feed_cases b s with ⟨-, e⟩ | ⟨-, -, e⟩ | ⟨-, -, e⟩ | ⟨-, hb, e⟩ | ⟨-, -, e⟩ <;>
    (rw [e] at h; cases h; refine ⟨_, ?_, rfl⟩; simp_all [FrameEvent.got])

@[simp] theorem feedAll_nil (s : State) : feedAll [] s = .next s := rfl

@[simp] theorem feedAll_cons (b : Byte) (bs : List Byte) (s : State) :
    feedAll (b :: bs) s = andThen (feed b s) (feedAll bs) := rfl

theorem feedAll_append (xs ys : List Byte) (s : State) :
    feedAll (xs ++ ys) s = andThen (feedAll xs s) (feedAll ys) := by
  induction xs generalizing s with
  | nil => rfl
  | cons b rest ih =>
    obtain ⟨m, hm⟩ := feed_completes b s
    simp [hm, ih]

theorem feedAll_completes (bs : List Byte) (s : State) : ∃ t, feedAll bs s = .next t := by
  induction bs generalizing s with
  | nil => exact ⟨s, rfl⟩
  | cons b rest ih =>
    obtain ⟨m, hm⟩ := feed_completes b s
    simpa [hm] using ih m

/-- A property every FEED keeps is kept by a drain. -/
theorem feedAll_keeps {P : State → Prop} (h : ∀ b s t, feed b s = .next t → P s → P t) :
    ∀ bs s t, feedAll bs s = .next t → P s → P t := by
  intro bs
  induction bs with
  | nil =>
    intro s t hr hp
    cases hr
    exact hp
  | cons b rest ih =>
    intro s t hr hp
    obtain ⟨m, h1, h2⟩ := andThen_eq_next hr
    exact ih m t h2 (h b s m h1 hp)

/-! ## ADVANCE -/

/-- SCALE and Publish (R134, R135): the call the rules give, and nothing moved but the count of free values. -/
theorem publish_spec (s : State) (g : Bool) (raw n : Int) (d : FloatVal) :
    CallOf s.params g raw n d (s.publish g raw n d).1 ∧ ∃ k, (s.publish g raw n d).2 = { s with draws := k } := by
  cases g with
  | false => exact ⟨rfl, s.draws, rfl⟩
  | true =>
    refine ⟨⟨_, rfl, ?_⟩, ?_⟩
    · intro q hd hq
      subst hd
      simp [hq]
    · exact ⟨s.draws + drawsFor d, rfl⟩

/-- The state PUB.G0 leaves (R137). -/
theorem execPubG0_next (s : State) (h : s.cur = .awaitingGroup0) :
    ∃ (c p : Option Publication) (k : Nat),
      CallOf s.params s.cfg.attCurrent (s.u24 1) (s.u24 1) s.cfg.iRef c ∧
      CallOf s.params s.cfg.attPower (s.s24 7) (s.s24 7) s.cfg.pRef p ∧
      execPubG0 s = .next (({ s with cur := .awaitingGroup1, draws := k }).emitGroup
        (s.cfg.attCurrent || s.cfg.attPower) (.group0 c p)) := by
  obtain ⟨h1, k1, e1⟩ := publish_spec s s.cfg.attCurrent (s.u24 1) (s.u24 1) s.cfg.iRef
  obtain ⟨h2, k2, e2⟩ := publish_spec { s with draws := k1 } s.cfg.attPower (s.s24 7) (s.s24 7) s.cfg.pRef
  refine ⟨_, _, k2, h1, h2, ?_⟩
  simp only [execPubG0, if_pos h, Config.posCurrent, Config.posPower, e1, e2]

/-- The state PUB.G1 leaves (R138). -/
theorem execPubG1_next (s : State) (h : s.cur = .awaitingGroup1) :
    ∃ (v f : Option Publication) (k : Nat),
      CallOf s.params s.cfg.attVoltage (s.u24 4) (s.u24 4) s.cfg.vRef v ∧
      CallOf s.params s.cfg.attFrequency (s.u24 10) 1000000 (.finite (s.u24 10)) f ∧
      execPubG1 s = .next (({ s with cur := .awaitingGroup2, draws := k }).emitGroup
        (s.cfg.attVoltage || s.cfg.attFrequency) (.group1 v f)) := by
  obtain ⟨h1, k1, e1⟩ := publish_spec s s.cfg.attVoltage (s.u24 4) (s.u24 4) s.cfg.vRef
  obtain ⟨h2, k2, e2⟩ :=
    publish_spec { s with draws := k1 } s.cfg.attFrequency (s.u24 10) 1000000 (.finite (s.u24 10))
  refine ⟨_, _, k2, h1, h2, ?_⟩
  simp only [execPubG1, if_pos h, Config.posVoltage, Config.posPeriod, Config.freqNum, e1, e2]

/-- The state PUB.G2 leaves (R139). -/
theorem execPubG2_next (s : State) (h : s.cur = .awaitingGroup2) :
    ∃ (e : Option Publication) (k : Nat),
      CallOf s.params s.cfg.attEnergy (s.u24 13) (s.u24 13) s.cfg.eRef e ∧
      execPubG2 s = .next (({ s with cur := .idle, draws := k }).emitGroup s.cfg.attEnergy (.group2 e)) := by
  obtain ⟨h1, k1, e1⟩ := publish_spec s s.cfg.attEnergy (s.u24 13) (s.u24 13) s.cfg.eRef
  refine ⟨_, k1, h1, ?_⟩
  simp only [execPubG2, if_pos h, Config.posEnergy, e1]

/-- Where CUR goes at an ADVANCE (R142). -/
def Cursor.after : Cursor → Cursor
  | .awaitingGroup0 => .awaitingGroup1
  | .awaitingGroup1 => .awaitingGroup2
  | .awaitingGroup2 => .idle
  | .idle => .idle

/-- Everything one ADVANCE can do (R136): nothing where CUR is idle; otherwise at most one emission, one step of CUR, and
nothing else but the count of free values. -/
theorem advance_cases (s : State) :
    (s.cur = .idle ∧ advance s = .next s) ∨
    ∃ (g : Bool) (e : Emission) (k : Nat), s.cur ≠ .idle ∧ e.groupId = s.cur.code ∧
      advance s = .next (({ s with cur := s.cur.after, draws := k }).emitGroup g e) := by
  cases h : s.cur with
  | awaitingGroup0 =>
    obtain ⟨c, p, k, -, -, e⟩ := execPubG0_next s h
    exact .inr ⟨_, _, k, by simp, rfl, by simpa [advance, h, Cursor.after] using e⟩
  | awaitingGroup1 =>
    obtain ⟨v, f, k, -, -, e⟩ := execPubG1_next s h
    exact .inr ⟨_, _, k, by simp, rfl, by simpa [advance, h, Cursor.after] using e⟩
  | awaitingGroup2 =>
    obtain ⟨x, k, -, e⟩ := execPubG2_next s h
    exact .inr ⟨_, _, k, by simp, rfl, by simpa [advance, h, Cursor.after] using e⟩
  | idle => exact .inl ⟨rfl, by simp [advance, execPubIdle, h]⟩

theorem advance_completes (s : State) : ∃ t, advance s = .next t := by
  rcases advance_cases s with ⟨-, e⟩ | ⟨_, _, _, -, -, e⟩ <;> exact ⟨_, e⟩

/-! ## TRIG and TICK -/

/-- Everything TRIG can do (R161). -/
theorem execTrig_cases (s : State) :
    (s.pend = true ∧ execTrig s = .next { s.transmit Config.commandFrame with pend := false }) ∨
    (s.pend = false ∧ execTrig s = .next s) := by
  cases h : s.pend <;> simp [execTrig, h]

theorem execTrig_completes (s : State) : ∃ t, execTrig s = .next t := by
  rcases execTrig_cases s with ⟨-, e⟩ | ⟨-, e⟩ <;> exact ⟨_, e⟩

/-- A TICK is an ADVANCE or a drain, and then TRIG (R171). -/
theorem execTick_eq (bs : List Byte) (s : State) :
    execTick bs s = andThen (if bs = [] then advance s else feedAll bs s) execTrig := by
  cases bs <;> simp [execTick]

theorem execTick_completes (bs : List Byte) (s : State) : ∃ t, execTick bs s = .next t := by
  rw [execTick_eq]
  split
  · obtain ⟨m, hm⟩ := advance_completes s
    simpa [hm] using execTrig_completes m
  · obtain ⟨m, hm⟩ := feedAll_completes bs s
    simpa [hm] using execTrig_completes m

/-- A property that every FEED, every ADVANCE and TRIG keep is kept by a TICK. -/
theorem execTick_keeps {P : State → Prop} (hfeed : ∀ b s t, feed b s = .next t → P s → P t)
    (hadvance : ∀ s t, advance s = .next t → P s → P t) (htrig : ∀ s t, execTrig s = .next t → P s → P t) :
    ∀ bs s t, execTick bs s = .next t → P s → P t := by
  intro bs s t h hp
  rw [execTick_eq] at h
  obtain ⟨m, h1, h2⟩ := andThen_eq_next h
  refine htrig m t h2 ?_
  split at h1
  · exact hadvance s m h1 hp
  · exact feedAll_keeps hfeed bs s m h1 hp

/-! ## A step -/

/-- Which operations a step can run: those of the strobes. -/
theorem mem_decodeStrobes {i : Instr} {rst req tick : Bool} {bs : List Byte}
    (h : i ∈ decodeStrobes rst req tick bs) : i = .reset ∨ i = .req ∨ i = .tick bs := by
  cases rst <;> cases req <;> cases tick <;> simp [decodeStrobes] at h <;> tauto

/-- Everything a step can do: nothing, an environment change outside the block, or the operations of the strobes. -/
theorem step_cases {s t : State} (h : step s = .next t) :
    (s.stimuli = [] ∧ t = s) ∨
    (∃ bs rest, s.stimuli = .arrive bs :: rest ∧ t = { s with stimuli := rest, rx := s.rx ++ bs }) ∨
    (∃ c rest, s.stimuli = .configure c :: rest ∧ t = { s with stimuli := rest, cfg := c }) ∨
    (∃ bs rest, s.stimuli = .foreignTx bs :: rest ∧
      t = { s with stimuli := rest, out := s.out ++ bs.map Output.foreignTx }) ∨
    (∃ rst req tick rest, s.stimuli = .strobes rst req tick :: rest ∧
      runInOrder exec (decodeStrobes rst req tick s.rx)
        { s with stimuli := rest, rx := if tick then [] else s.rx } = .next t) := by
  unfold step fetch at h
  split at h
  · rename_i ops s' heq
    split at heq
    · cases heq; cases h; exact .inl ⟨‹_›, rfl⟩
    · cases heq; cases h; exact .inr (.inl ⟨_, _, ‹_›, rfl⟩)
    · cases heq; cases h; exact .inr (.inr (.inl ⟨_, _, ‹_›, rfl⟩))
    · cases heq; cases h; exact .inr (.inr (.inr (.inl ⟨_, _, ‹_›, rfl⟩)))
    · cases heq
    · cases heq; exact .inr (.inr (.inr (.inr ⟨_, _, _, _, ‹_›, h⟩)))
  · cases h

/-- A property kept by every operation of the block, and blind to the inbound stream, the stimuli, the configuration and
the outputs, is kept by a step. -/
theorem step_keeps {P : State → Prop} (hfeed : ∀ b s t, feed b s = .next t → P s → P t)
    (hadvance : ∀ s t, advance s = .next t → P s → P t) (htrig : ∀ s t, execTrig s = .next t → P s → P t)
    (hreq : ∀ s, P s → P { s with pend := true }) (hreset : ∀ s t, execReset s = .next t → P s → P t)
    (henv : ∀ s rx st cfg out, P s → P { s with rx := rx, stimuli := st, cfg := cfg, out := out }) :
    ∀ s t, step s = .next t → P s → P t := by
  intro s t h hp
  rcases step_cases h with ⟨-, rfl⟩ | ⟨bs, rest, -, rfl⟩ | ⟨c, rest, -, rfl⟩ | ⟨bs, rest, -, rfl⟩ |
    ⟨rst, req, tick, rest, -, hr⟩
  · exact hp
  · exact henv s _ _ s.cfg s.out hp
  · exact henv s s.rx _ _ s.out hp
  · exact henv s s.rx _ s.cfg _ hp
  · refine runInOrder_keeps ?_ _ t hr (henv s _ _ s.cfg s.out hp)
    intro i hi u v hu hpu
    rcases mem_decodeStrobes hi with rfl | rfl | rfl
    · exact hreset u v hu hpu
    · cases hu
      exact hreq u hpu
    · exact execTick_keeps hfeed hadvance htrig _ u v hu hpu

end Sys2Proof.Machine
end

