-- ==== Sys2Proof/Laws/Decode.lean ====
section
/-! SUPPORT. The decoder: the table R84 and the dispatch R110 select the same operation, and likewise R85 and R136. -/

namespace Sys2Proof

/-- The table R84, read as conditions. -/
theorem decodeFeed_eq (wo : BitVec 5) (b : Byte) :
    decodeFeed wo b = .ok
      (if wo.toNat < 16 then .feedStore b
       else if wo.toNat = 16 then .feedCheck b
       else if b = 0x55 then .feedHdr
       else .feedResync b) := by
  have hlt := wo.isLt
  have hm : b &&& 255#8 = b := by
    simpa using BitVec.and_allOnes (x := b)
  by_cases h1 : wo.toNat < 16
  · have : wo.toNat ≤ 15 := by omega
    simp [decodeFeed, feedRows, firstFeedRow, FeedRow.instr, h1, this]
  · by_cases h2 : wo.toNat = 16
    · simp [decodeFeed, feedRows, firstFeedRow, FeedRow.instr, h2]
    · have h3 : ¬ wo.toNat ≤ 15 := by omega
      have h4 : ¬ wo.toNat ≤ 16 := by omega
      have h5 : 17 ≤ wo.toNat := by omega
      have h6 : wo.toNat ≤ 31 := by omega
      by_cases hb : b = 85#8 <;>
        simp [decodeFeed, feedRows, firstFeedRow, FeedRow.instr, h1, h2, h3, h4, h5, h6, hb, hm]

theorem decodeGroup_code (c : Machine.Cursor) :
    decodeGroup c.code = match c with
      | .awaitingGroup0 => .pubG0
      | .awaitingGroup1 => .pubG1
      | .awaitingGroup2 => .pubG2
      | .idle => .pubIdle := by
  cases c <;> rfl

end Sys2Proof
end

