-- ==== Sys2Proof/Laws/Exec.lean ====
section
/-! SUPPORT. What exec can do, said once over all operations: an operation that answers a next state was a FEED, an ADVANCE,
REQ, TRIG, a TICK or RESET; and the rules by which a property kept by these is kept by exec. -/

namespace Sys2Proof.Machine

/-! ## Where the dispatch selects an operation -/

theorem execFeedStore_selected {b : Byte} {s t : State} (h : execFeedStore b s = .next t) : s.wo.toNat < 16 := by
  by_contra hc
  have e : execFeedStore b s = .refused (.notSelected "FEED.STORE") := if_neg hc
  rw [e] at h
  cases h

theorem execFeedCheck_selected {b : Byte} {s t : State} (h : execFeedCheck b s = .next t) : s.wo = 16 := by
  by_contra hc
  have e : execFeedCheck b s = .refused (.notSelected "FEED.CHECK") := if_neg hc
  rw [e] at h
  cases h

theorem execFeedHdr_selected {s t : State} (h : execFeedHdr s = .next t) : 17 ≤ s.wo.toNat := by
  by_contra hc
  have e : execFeedHdr s = .refused (.notSelected "FEED.HDR") := if_neg hc
  rw [e] at h
  cases h

theorem execFeedResync_selected {b : Byte} {s t : State} (h : execFeedResync b s = .next t) :
    17 ≤ s.wo.toNat ∧ b ≠ Config.sentinel := by
  by_contra hc
  have e : execFeedResync b s = .refused (.notSelected "FEED.RESYNC") := if_neg hc
  rw [e] at h
  cases h

theorem execPubG0_selected {s t : State} (h : execPubG0 s = .next t) : s.cur = .awaitingGroup0 := by
  by_contra hc
  have e : execPubG0 s = .refused (.notSelected "PUB.G0") := if_neg hc
  rw [e] at h
  cases h

theorem execPubG1_selected {s t : State} (h : execPubG1 s = .next t) : s.cur = .awaitingGroup1 := by
  by_contra hc
  have e : execPubG1 s = .refused (.notSelected "PUB.G1") := if_neg hc
  rw [e] at h
  cases h

theorem execPubG2_selected {s t : State} (h : execPubG2 s = .next t) : s.cur = .awaitingGroup2 := by
  by_contra hc
  have e : execPubG2 s = .refused (.notSelected "PUB.G2") := if_neg hc
  rw [e] at h
  cases h

theorem execPubIdle_selected {s t : State} (h : execPubIdle s = .next t) : s.cur = .idle := by
  by_contra hc
  have e : execPubIdle s = .refused (.notSelected "PUB.IDLE") := if_neg hc
  rw [e] at h
  cases h

/-! ## The dispatch runs the operation it selects (R110, R136) -/

theorem feed_eq_store (b : Byte) {s : State} (h : s.wo.toNat < 16) : feed b s = execFeedStore b s := if_pos h

theorem feed_eq_check (b : Byte) {s : State} (h : s.wo = 16) : feed b s = execFeedCheck b s := by
  simp [feed, h]

theorem feed_eq_hdr {s : State} (h : 17 ≤ s.wo.toNat) : feed Config.sentinel s = execFeedHdr s := by
  have h1 : ¬ s.wo.toNat < 16 := by omega
  have h2 : ¬ s.wo.toNat = 16 := by omega
  simp [feed, h1, h2]

theorem feed_eq_resync {b : Byte} {s : State} (h : 17 ≤ s.wo.toNat) (hb : b ≠ Config.sentinel) :
    feed b s = execFeedResync b s := by
  have h1 : ¬ s.wo.toNat < 16 := by omega
  have h2 : ¬ s.wo.toNat = 16 := by omega
  unfold feed
  rw [if_neg h1, if_neg h2, if_neg hb]

/-! ## Inversion -/

/-- What an operation that answers a next state did: a FEED of some byte, an ADVANCE, or itself. -/
theorem exec_cases {i : Instr} {s t : State} (h : exec i s = .next t) :
    (∃ b, feed b s = .next t) ∨ advance s = .next t ∨ (i = .req ∧ t = { s with pend := true }) ∨
    (i = .trig ∧ execTrig s = .next t) ∨ (∃ bs, i = .tick bs ∧ execTick bs s = .next t) ∨
    (i = .reset ∧ execReset s = .next t) := by
  cases i with
  | feedStore b => exact .inl ⟨b, (feed_eq_store b (execFeedStore_selected h)).trans h⟩
  | feedCheck b => exact .inl ⟨b, (feed_eq_check b (execFeedCheck_selected h)).trans h⟩
  | feedHdr => exact .inl ⟨_, (feed_eq_hdr (execFeedHdr_selected h)).trans h⟩
  | feedResync b =>
    have hs := execFeedResync_selected h
    exact .inl ⟨b, (feed_eq_resync hs.1 hs.2).trans h⟩
  | pubG0 => exact .inr (.inl (by simp only [advance, execPubG0_selected h]; exact h))
  | pubG1 => exact .inr (.inl (by simp only [advance, execPubG1_selected h]; exact h))
  | pubG2 => exact .inr (.inl (by simp only [advance, execPubG2_selected h]; exact h))
  | pubIdle => exact .inr (.inl (by simp only [advance, execPubIdle_selected h]; exact h))
  | req =>
    cases h
    exact .inr (.inr (.inl ⟨rfl, rfl⟩))
  | trig => exact .inr (.inr (.inr (.inl ⟨rfl, h⟩)))
  | tick bs => exact .inr (.inr (.inr (.inr (.inl ⟨bs, rfl, h⟩))))
  | reset => exact .inr (.inr (.inr (.inr (.inr ⟨rfl, h⟩))))

/-- A property that every FEED, every ADVANCE, TRIG, REQ and, where the operation is RESET, RESET keep is kept by exec. -/
theorem exec_keeps {P : State → Prop} (hfeed : ∀ b s t, feed b s = .next t → P s → P t)
    (hadvance : ∀ s t, advance s = .next t → P s → P t) (htrig : ∀ s t, execTrig s = .next t → P s → P t)
    (hreq : ∀ s, P s → P { s with pend := true }) {i : Instr}
    (hreset : i = .reset → ∀ s t, execReset s = .next t → P s → P t) {s t : State} (h : exec i s = .next t)
    (hp : P s) : P t := by
  rcases exec_cases h with ⟨b, e⟩ | e | ⟨-, rfl⟩ | ⟨-, e⟩ | ⟨bs, -, e⟩ | ⟨hi, e⟩
  · exact hfeed b s t e hp
  · exact hadvance s t e hp
  · exact hreq s hp
  · exact htrig s t e hp
  · exact execTick_keeps hfeed hadvance htrig bs s t e hp
  · exact hreset hi s t e hp

end Sys2Proof.Machine
end

