-- ==== Sys2Proof/Laws/PerInstr.lean ====
section
/-! SUPPORT. Statements made per operation: the family EncodeDecode, one lemma per constructor of Instr. -/

namespace Sys2Proof.Laws

/-- The key that encodes a well-formed operation decodes to it. -/
def EncodeDecode.Statement (i : Instr) : Prop := i.wellFormed = true → decode (encode i) = .ok i

theorem EncodeDecode.feedStore (b : Byte) : EncodeDecode.Statement (.feedStore b) := fun _ => by
  simp [decode, encode, decodeFeed_eq]

theorem EncodeDecode.feedCheck (b : Byte) : EncodeDecode.Statement (.feedCheck b) := fun _ => by
  simp [decode, encode, decodeFeed_eq]

theorem EncodeDecode.feedHdr : EncodeDecode.Statement .feedHdr := fun _ => by
  simp [decode, encode, decodeFeed_eq]

theorem EncodeDecode.feedResync (b : Byte) : EncodeDecode.Statement (.feedResync b) := fun h => by
  have hb : b ≠ 85#8 := by simpa [Instr.wellFormed] using h
  simp [decode, encode, decodeFeed_eq, hb]

theorem EncodeDecode.pubG0 : EncodeDecode.Statement .pubG0 := fun _ => rfl
theorem EncodeDecode.pubG1 : EncodeDecode.Statement .pubG1 := fun _ => rfl
theorem EncodeDecode.pubG2 : EncodeDecode.Statement .pubG2 := fun _ => rfl
theorem EncodeDecode.pubIdle : EncodeDecode.Statement .pubIdle := fun _ => rfl
theorem EncodeDecode.req : EncodeDecode.Statement .req := fun _ => rfl
theorem EncodeDecode.trig : EncodeDecode.Statement .trig := fun _ => rfl
theorem EncodeDecode.tick (bs : List Byte) : EncodeDecode.Statement (.tick bs) := fun _ => rfl
theorem EncodeDecode.reset : EncodeDecode.Statement .reset := fun _ => rfl

end Sys2Proof.Laws
end

