-- ==== Sys2Proof/Certificates/Slice0/Obligations.lean ====
section
/-! DEFINITION. The statements for the provers, one definition each, from the numbered rules of spec/. -/

open Sys2Proof Sys2Proof.Machine

/-! ## The Frame Assembler -/

/-- R111: FEED.STORE completes whenever it is selected; the byte goes to `BUF[WO]`, WO moves up by one, CSUM takes the byte
modulo 256, Continue is presented, and nothing else changes. -/
def Obligations.FeedStoreWritesItsCellAndAddsToTheChecksum : Prop :=
  ∀ (b : Byte) (s : State), s.wo.toNat ≤ 15 →
    ∃ t, exec (.feedStore b) s = .next t ∧
      t.cell s.wo.toNat = b ∧ SameBufferBut s.wo.toNat s t ∧
      t.wo.toNat = s.wo.toNat + 1 ∧
      t.csum.toNat = (s.csum.toNat + b.toNat) % 256 ∧
      t.cur = s.cur ∧ t.pend = s.pend ∧
      t.out = s.out ++ [.event (.continued b)] ∧ SameSurroundings s t

/-- R112: FEED.CHECK completes whenever it is selected; WO becomes 17; CUR becomes 0 on a match and stays otherwise; the
verdict is presented; the byte is not stored, CSUM and PEND are not written. -/
def Obligations.FeedCheckJudgesTheChecksumByte : Prop :=
  ∀ (b : Byte) (s : State), s.wo = 16 →
    ∃ t, exec (.feedCheck b) s = .next t ∧
      t.wo = 17 ∧
      (if b = s.csum ^^^ 0xFF then
        t.cur = .awaitingGroup0 ∧ t.out = s.out ++ [.event (.checksumOk (s.csum ^^^ 0xFF) b)]
       else t.cur = s.cur ∧ t.out = s.out ++ [.event (.checksumFail (s.csum ^^^ 0xFF) b)]) ∧
      t.csum = s.csum ∧ t.pend = s.pend ∧ SameBuffer s t ∧ SameSurroundings s t

/-- R113: FEED.HDR completes whenever it is selected; the sentinel goes to `BUF[0]`, WO becomes 1, CSUM 0xAD, Continue is
presented; CUR becomes idle under HDR_IDLES_CURSOR and stays otherwise. -/
def Obligations.FeedHdrStartsAPacket : Prop :=
  ∀ s : State, 17 ≤ s.wo.toNat →
    ∃ t, exec .feedHdr s = .next t ∧
      t.cell 0 = 0x55 ∧ SameBufferBut 0 s t ∧ t.wo = 1 ∧ t.csum = 0xAD ∧
      t.cur = (if s.params.hdrIdlesCursor then .idle else s.cur) ∧ t.pend = s.pend ∧
      t.out = s.out ++ [.event (.continued 0x55)] ∧ SameSurroundings s t

/-- R114: FEED.RESYNC completes whenever it is selected; ResyncError is presented with the byte and no state changes. -/
def Obligations.FeedResyncOnlyReportsTheByte : Prop :=
  ∀ (b : Byte) (s : State), 17 ≤ s.wo.toNat → b ≠ 0x55 →
    exec (.feedResync b) s = .next { s with out := s.out ++ [.event (.resyncError b)] }

/-- R110: FEED selects by WO and the byte, in the order of the rule; the key of R84 decodes to that operation, and FEED runs
it. -/
def Obligations.FeedRunsTheOperationItsKeyDecodesTo : Prop :=
  ∀ (b : Byte) (s : State), ∃ i,
    i = (if s.wo.toNat < 16 then .feedStore b
         else if s.wo.toNat = 16 then .feedCheck b
         else if b = 0x55 then .feedHdr
         else .feedResync b) ∧
    decode (.rxb s.wo b) = .ok i ∧ i.wellFormed = true ∧ feed b s = exec i s

/-- R88, R196: one FEED presents exactly one FrameEvent, with the code and the information the table gives. -/
def Obligations.FeedPresentsOneCodedEvent : Prop :=
  ∀ (b : Byte) (s : State), ∃ t e, feed b s = .next t ∧ t.out = s.out ++ [.event e] ∧ e.got = b ∧
    (s.wo.toNat < 16 → e.code = 0 ∧ e.isError = false) ∧
    (s.wo.toNat = 16 → b = s.csum ^^^ 0xFF →
      e.code = 1 ∧ e.expected = some (s.csum ^^^ 0xFF) ∧ e.isError = false) ∧
    (s.wo.toNat = 16 → b ≠ s.csum ^^^ 0xFF →
      e.code = 2 ∧ e.expected = some (s.csum ^^^ 0xFF) ∧ e.isError = true) ∧
    (17 ≤ s.wo.toNat → b = 0x55 → e.code = 0 ∧ e.isError = false) ∧
    (17 ≤ s.wo.toNat → b ≠ 0x55 → e.code = 3 ∧ e.expected = some 0x55 ∧ e.isError = true)

/-- R119: where WO goes at each FEED operation. -/
def Obligations.WriteOffsetMovesAsTheTableSays : Prop :=
  ∀ (b : Byte) (s t : State), feed b s = .next t →
    (s.wo.toNat ≤ 15 → t.wo.toNat = s.wo.toNat + 1) ∧
    (s.wo.toNat = 16 → t.wo = 17) ∧
    (17 ≤ s.wo.toNat → b = 0x55 → t.wo = 1) ∧
    (17 ≤ s.wo.toNat → b ≠ 0x55 → t.wo = s.wo)

/-- R118: no operation, a TICK over any bytes included, writes a cell outside 0..15, and WO never passes 17. -/
def Obligations.NoOperationWritesPastTheFillRegion : Prop :=
  ∀ (i : Instr) (s t : State), exec i s = .next t →
    (s.wo.toNat ≤ 17 → t.wo.toNat ≤ 17) ∧
    (i ≠ .reset → ∀ a, 16 ≤ a → t.buf.find a = s.buf.find a ∧ t.cell a = s.cell a)

/-- R115, R226: a header and `k <= 15` bytes after it leave WO at `1 + k`, the sum in CSUM, the new bytes in the cells below
WO and the older contents in the others; CUR is untouched unless HDR_IDLES_CURSOR. -/
def Obligations.PartialPacketFillsOnlyTheCellsBelowWo : Prop :=
  ∀ (ds : List Byte) (s : State), 17 ≤ s.wo.toNat → ds.length ≤ 15 →
    ∃ t, feedAll (0x55 :: ds) s = .next t ∧
      t.wo.toNat = 1 + ds.length ∧
      t.csum.toNat = (0xAD + (ds.map BitVec.toNat).sum) % 256 ∧
      t.cell 0 = 0x55 ∧ (∀ k, k < ds.length → t.cell (k + 1) = ds.getD k 0) ∧
      (∀ a, 1 + ds.length ≤ a → t.cell a = s.cell a) ∧
      t.cur = (if s.params.hdrIdlesCursor then .idle else s.cur) ∧
      t.out = s.out ++ continues (0x55 :: ds)

/-- R116: a whole valid packet, from any awaiting state, however WO reads there. -/
def Obligations.ValidPacketIsAccepted : Prop :=
  ∀ (p : List Byte) (s : State), ValidPacket p → 17 ≤ s.wo.toNat →
    ∃ t, feedAll p s = .next t ∧
      t.out = s.out ++ continues (p.take 16) ++ [.event (.checksumOk (p.getD 16 0) (p.getD 16 0))] ∧
      (∀ a, a < 16 → t.cell a = p.getD a 0) ∧ t.buf.find 16 = s.buf.find 16 ∧ t.cell 16 = s.cell 16 ∧
      t.wo = 17 ∧ t.cur = .awaitingGroup0 ∧ t.csum = packetSum (p.take 16) ∧ t.pend = s.pend

/-- R117: one changed byte after the header makes the packet end in ChecksumFail, and CUR is not set to 0 by it. -/
def Obligations.OneChangedByteIsRejected : Prop :=
  ∀ (p : List Byte) (s : State) (k : Nat) (v : Byte),
    ValidPacket p → 17 ≤ s.wo.toNat → 1 ≤ k → k ≤ 16 → v ≠ p.getD k 0 →
    ∃ t, feedAll (p.set k v) s = .next t ∧
      t.out = s.out ++ continues ((p.set k v).take 16) ++
        [.event (.checksumFail (packetChecksum ((p.set k v).take 16)) ((p.set k v).getD 16 0))] ∧
      t.wo = 17 ∧ t.cur = (if s.params.hdrIdlesCursor then .idle else s.cur)

/-- R114 over a stream: bytes other than the sentinel, met while awaiting, are each reported and change no state. -/
def Obligations.StrayBytesAreOnlyReported : Prop :=
  ∀ (bs : List Byte) (s : State), 17 ≤ s.wo.toNat → (∀ b ∈ bs, b ≠ 0x55) →
    feedAll bs s = .next { s with out := s.out ++ bs.map (fun b => .event (.resyncError b)) }

/-! ## The Field Publisher -/

/-- R136: ADVANCE selects by CUR alone; the key of R85 decodes to that operation, and ADVANCE runs it. -/
def Obligations.AdvanceRunsTheOperationTheCursorDecodesTo : Prop :=
  ∀ s : State, ∃ i,
    i = (match s.cur with
      | .awaitingGroup0 => .pubG0
      | .awaitingGroup1 => .pubG1
      | .awaitingGroup2 => .pubG2
      | .idle => .pubIdle) ∧
    decode (.grp s.cur.code) = .ok i ∧ advance s = exec i s

/-- R137: PUB.G0 completes whenever it is selected. -/
def Obligations.PubG0PublishesCurrentAndPower : Prop :=
  ∀ s : State, s.cur = .awaitingGroup0 →
    ∃ t current power, exec .pubG0 s = .next t ∧
      CallOf s.params s.cfg.attCurrent (unsignedField s 1) (unsignedField s 1) s.cfg.iRef current ∧
      CallOf s.params s.cfg.attPower (signedField s 7) (signedField s 7) s.cfg.pRef power ∧
      t.out = (if s.cfg.attCurrent || s.cfg.attPower then s.out ++ [.emission (.group0 current power)] else s.out) ∧
      t.cur = .awaitingGroup1 ∧ t.wo = s.wo ∧ t.csum = s.csum ∧ t.pend = s.pend ∧
      SameBuffer s t ∧ SameSurroundings s t

/-- R138: PUB.G1 completes whenever it is selected; the frequency is 1 000 000 over the raw period. -/
def Obligations.PubG1PublishesVoltageAndFrequency : Prop :=
  ∀ s : State, s.cur = .awaitingGroup1 →
    ∃ t voltage frequency, exec .pubG1 s = .next t ∧
      CallOf s.params s.cfg.attVoltage (unsignedField s 4) (unsignedField s 4) s.cfg.vRef voltage ∧
      CallOf s.params s.cfg.attFrequency (unsignedField s 10) 1000000 (.finite (unsignedField s 10)) frequency ∧
      t.out =
        (if s.cfg.attVoltage || s.cfg.attFrequency then s.out ++ [.emission (.group1 voltage frequency)] else s.out) ∧
      t.cur = .awaitingGroup2 ∧ t.wo = s.wo ∧ t.csum = s.csum ∧ t.pend = s.pend ∧
      SameBuffer s t ∧ SameSurroundings s t

/-- R139: PUB.G2 completes whenever it is selected; PEND is not touched. -/
def Obligations.PubG2PublishesEnergy : Prop :=
  ∀ s : State, s.cur = .awaitingGroup2 →
    ∃ t energy, exec .pubG2 s = .next t ∧
      CallOf s.params s.cfg.attEnergy (unsignedField s 13) (unsignedField s 13) s.cfg.eRef energy ∧
      t.out = (if s.cfg.attEnergy then s.out ++ [.emission (.group2 energy)] else s.out) ∧
      t.cur = .idle ∧ t.wo = s.wo ∧ t.csum = s.csum ∧ t.pend = s.pend ∧
      SameBuffer s t ∧ SameSurroundings s t

/-- R140: PUB.IDLE completes whenever it is selected and does nothing at all. -/
def Obligations.PubIdleDoesNothing : Prop :=
  ∀ s : State, s.cur = .idle → exec .pubIdle s = .next s

/-- R131: u24 of any position is the little-endian sum of its three cells, 0 .. 16 777 215. -/
def Obligations.UnsignedFieldIsLittleEndian : Prop :=
  ∀ (s : State) (a : Nat),
    s.u24 a = (s.cell a).toNat + 256 * (s.cell (a + 1)).toNat + 65536 * (s.cell (a + 2)).toNat ∧
      0 ≤ s.u24 a ∧ s.u24 a ≤ 16777215

/-- R132: s24 is u24 with bit 7 of the third cell as its sign, -8 388 608 .. 8 388 607. -/
def Obligations.SignedFieldIsSignExtended : Prop :=
  ∀ (s : State) (a : Nat),
    s.s24 a = (if (s.cell (a + 2)).getLsbD 7 then s.u24 a - 2 ^ 24 else s.u24 a) ∧
      -8388608 ≤ s.s24 a ∧ s.s24 a ≤ 8388607

/-- R134: SCALE rounds the exact quotient where the divisor is finite and not zero, and is the quotient itself where the
format holds it; for any other divisor its value is the next free value, and only the count of free values moves. -/
def Obligations.ScaleRoundsTheExactQuotient : Prop :=
  ∀ (s : State) (n : Int),
    (∀ q : Rat, q ≠ 0 →
      s.scale n (.finite q) = (roundTo s.params (n / q), s) ∧
      (represents s.params.format (n / q) = true → (s.scale n (.finite q)).1 = .finite (n / q))) ∧
    (∀ d : FloatVal, (∀ q : Rat, d = .finite q → q = 0) →
      s.scale n d = (Config.draw s.draws, { s with draws := s.draws + 1 }))

/-- R222, R231: under the host's obligation on the references no free value is drawn, but for a frequency whose raw period
is zero. -/
def Obligations.UsableReferencesDrawNothing : Prop :=
  ∀ s t : State, HostObligation s.cfg → advance s = .next t →
    t.draws = s.draws +
      (if s.cur = .awaitingGroup1 ∧ s.cfg.attFrequency = true ∧ unsignedField s 10 = 0 then 1 else 0)

/-- R141: after a ChecksumOk three empty ticks publish groups 0, 1, 2 in that order, each that has an attached channel, and
every later ADVANCE does nothing. -/
def Obligations.ThreeEmptyTicksPublishTheThreeGroups : Prop :=
  ∀ s : State, s.cur = .awaitingGroup0 →
    ∃ t, runInOrder exec [.tick [], .tick [], .tick []] s = .next t ∧
      (emissionsOf t.out).map Emission.groupId =
        (emissionsOf s.out).map Emission.groupId ++
          ((if s.cfg.attCurrent || s.cfg.attPower then [0] else []) ++
           (if s.cfg.attVoltage || s.cfg.attFrequency then [1] else []) ++
           (if s.cfg.attEnergy then [2] else [])) ∧
      t.cur = .idle ∧ advance t = .next t

/-- R142: where CUR goes at each operation but TICK, which composes the others and is left to its own statements. -/
def Obligations.CursorMovesAsTheTableSays : Prop :=
  ∀ (i : Instr) (s t : State), exec i s = .next t →
    match i with
    | .feedStore _ => t.cur = s.cur
    | .feedCheck b => t.cur = if b = s.csum ^^^ 0xFF then .awaitingGroup0 else s.cur
    | .feedHdr => t.cur = if s.params.hdrIdlesCursor then .idle else s.cur
    | .feedResync _ => t.cur = s.cur
    | .pubG0 => s.cur = .awaitingGroup0 ∧ t.cur = .awaitingGroup1
    | .pubG1 => s.cur = .awaitingGroup1 ∧ t.cur = .awaitingGroup2
    | .pubG2 => s.cur = .awaitingGroup2 ∧ t.cur = .idle
    | .pubIdle => s.cur = .idle ∧ t.cur = .idle
    | .req => t.cur = s.cur
    | .trig => t.cur = s.cur
    | .tick _ => True
    | .reset => t.cur = .idle

/-! ## FLOAT_FMT and ROUND, the recommended instance -/

/-- D14: the exponent the model computes brackets the quotient, `2^e <= a / b < 2^(e+1)`. -/
def Obligations.BinaryExponentBracketsTheQuotient : Prop :=
  ∀ a b : Nat, 0 < a → 0 < b →
    (2 : Rat) ^ floorLog2 a b ≤ (a : Rat) / b ∧ (a : Rat) / b < (2 : Rat) ^ (floorLog2 a b + 1)

/-- D14: round to nearest, ties to even, on the scaled significand. -/
def Obligations.SignificandRoundsToNearestEven : Prop :=
  ∀ n d : Nat, 0 < d →
    2 * n ≤ 2 * (nearestEvenNat n d * d) + d ∧ 2 * (nearestEvenNat n d * d) ≤ 2 * n + d ∧
      (2 * (n % d) = d → nearestEvenNat n d % 2 = 0)

/-- R134, G3: under binary32 every raw field, signed or unsigned, is represented exactly. -/
def Obligations.RawFieldsAreExactInBinary32 : Prop :=
  ∀ v : Raw24,
    represents FloatFormat.binary32 ((v.toNat : Int) : Rat) = true ∧
    represents FloatFormat.binary32 ((v.toInt : Int) : Rat) = true

/-! ## REQ, TRIG, TICK, RESET -/

/-- R160: REQ completes in every state, sets PEND and changes nothing else. -/
def Obligations.ReqOnlySetsThePendingFlag : Prop :=
  ∀ s : State, exec .req s = .next { s with pend := true }

/-- R161: TRIG completes in every state; with a request pending it sends `58 AA` and clears the flag, otherwise nothing at
all happens. -/
def Obligations.TrigSendsTheCommandOnce : Prop :=
  ∀ s : State,
    exec .trig s =
      if s.pend then .next { s with out := s.out ++ [.tx 0x58, .tx 0xAA], pend := false } else .next s

/-- R171: a TICK completes in every state, over any bytes: the operation the cursor selects, or the operations the bytes
select one after the other, and then TRIG. -/
def Obligations.TickIsDrainOrAdvanceThenTrig : Prop :=
  ∀ (bs : List Byte) (s : State), ∃ u t,
    (if bs = [] then ∃ i, decode (.grp s.cur.code) = .ok i ∧ exec i s = .next u else FeedChain bs s u) ∧
    exec .trig u = .next t ∧ exec (.tick bs) s = .next t

/-- R170 against R171: the loop over the availability query and the tick with the waiting bytes as its operand agree. -/
def Obligations.PollLoopAgreesWithTick : Prop :=
  ∀ s : State, pollTick s = exec (.tick s.rx) { s with rx := [] }

/-- R220: RESET completes in every state; WO, CUR and PEND take their reset values, no cell of BUF is written any more,
nothing is output, and the surroundings are untouched. -/
def Obligations.ResetRestoresTheInitialState : Prop :=
  ∀ s : State, ∃ t, exec .reset s = .next t ∧
    t.wo = 17 ∧ t.cur = .idle ∧ t.pend = false ∧ (∀ a, t.buf.find a = none) ∧
    t.out = s.out ∧ SameSurroundings s t

/-- R33: the values the spec gives for reset. -/
def Obligations.ResetStateHasTheGivenValues : Prop :=
  State.reset.wo = 17 ∧ State.reset.cur = .idle ∧ State.reset.pend = false ∧
    (∀ a, State.reset.buf.find a = none) ∧ State.reset.params.hdrIdlesCursor = false

/-- R5, R110, R136: an internal operation is refused exactly where the dispatch does not select it. -/
def Obligations.UnselectedOperationsAreRefused : Prop :=
  ∀ (s : State) (b : Byte),
    ((∃ t, exec (.feedStore b) s = .next t) ↔ s.wo.toNat ≤ 15) ∧
    ((∃ t, exec (.feedCheck b) s = .next t) ↔ s.wo.toNat = 16) ∧
    ((∃ t, exec .feedHdr s = .next t) ↔ 17 ≤ s.wo.toNat) ∧
    ((∃ t, exec (.feedResync b) s = .next t) ↔ 17 ≤ s.wo.toNat ∧ b ≠ 0x55) ∧
    ((∃ t, exec .pubG0 s = .next t) ↔ s.cur = .awaitingGroup0) ∧
    ((∃ t, exec .pubG1 s = .next t) ↔ s.cur = .awaitingGroup1) ∧
    ((∃ t, exec .pubG2 s = .next t) ↔ s.cur = .awaitingGroup2) ∧
    ((∃ t, exec .pubIdle s = .next t) ↔ s.cur = .idle)

/-- No operation, TICK and RESET included, changes the parameters or the configuration (R34, which the spec marks as
derived), the inbound stream or the stimuli. The last two are the model's choice: R34 has no column for them, and by R53
and R170 a TICK consumes its bytes from RX; here they are the operand of TICK (log entry 15), `fetch` takes them from `rx`
before exec runs (log entry 2), and the list of stimuli is the model's own (log entry 1). -/
def Obligations.NoOperationTouchesItsSurroundings : Prop :=
  ∀ (i : Instr) (s t : State), exec i s = .next t → SameSurroundings s t

/-- R116, last sentence: with no request pending it does not matter how a stream is divided among ticks. -/
def Obligations.DividingAStreamAmongTicksDoesNotMatter : Prop :=
  ∀ (bss : List (List Byte)) (s : State), s.pend = false → (∀ bs ∈ bss, bs ≠ []) → bss ≠ [] →
    runInOrder exec (bss.map Instr.tick) s = exec (.tick bss.flatten) s

/-- R161, R170: a TICK clears the request, and its command, if any, is the last thing it outputs, in order and adjacent;
the block sends nothing else on TX. -/
def Obligations.CommandIsTheTicksLastOutput : Prop :=
  ∀ (bs : List Byte) (s t : State), exec (.tick bs) s = .next t →
    t.pend = false ∧ ∃ pre, blockTxOf pre = [] ∧
      t.out = s.out ++ pre ++ (if s.pend then [.tx 0x58, .tx 0xAA] else [])

/-- R196, R171: the FrameEvents of a TICK are one for each byte, in byte order. -/
def Obligations.TickPresentsOneEventForEachByte : Prop :=
  ∀ (bs : List Byte) (s t : State), exec (.tick bs) s = .next t →
    ∃ es : List FrameEvent, eventsOf t.out = eventsOf s.out ++ es ∧ es.map FrameEvent.got = bs

/-- R130, R170 corner (a): a TICK never both feeds and publishes, and emits at most one group. -/
def Obligations.TickNeverDrainsAndPublishes : Prop :=
  ∀ (bs : List Byte) (s t : State), exec (.tick bs) s = .next t →
    ∃ new, t.out = s.out ++ new ∧ (eventsOf new = [] ∨ emissionsOf new = []) ∧ (emissionsOf new).length ≤ 1 ∧
      (bs ≠ [] → emissionsOf new = [])

/-- R160 corner (a), R234: any positive number of REQs with no TICK between them leaves one command. -/
def Obligations.RequestsCoalesce : Prop :=
  ∀ (k : Nat) (s : State), s.cur = .idle →
    runInOrder exec (List.replicate (k + 1) .req ++ [.tick [], .tick []]) s =
      .next { s with out := s.out ++ [.tx 0x58, .tx 0xAA], pend := false }

/-- R228, R32 item 7: while a packet is being assembled, any number of empty ticks leaves the Assembler where it is. -/
def Obligations.EmptyTicksNeverAbandonAPacket : Prop :=
  ∀ (k : Nat) (s : State), s.wo.toNat ≤ 16 →
    ∃ t, runInOrder exec (List.replicate k (.tick [])) s = .next t ∧
      t.wo = s.wo ∧ t.csum = s.csum ∧ SameBuffer s t

/-- R230: as long as every tick finds input, nothing is published. -/
def Obligations.InputAtEveryTickStarvesThePublisher : Prop :=
  ∀ (bss : List (List Byte)) (s : State), (∀ bs ∈ bss, bs ≠ []) →
    ∃ t, runInOrder exec (bss.map Instr.tick) s = .next t ∧ emissionsOf t.out = emissionsOf s.out

/-- R223: the normal cycle, for every packet: REQ, a tick that sends the command, a tick that drains the packet, three empty
ticks. The values published are those of the packet's own fields, power signed. -/
def Obligations.NormalCyclePublishesThePacketsFields : Prop :=
  ∀ (f : Fields) (s : State), 17 ≤ s.wo.toNat → s.cur = .idle →
    ∃ t current power voltage frequency energy,
      runInOrder exec [.req, .tick [], .tick (encodePacket f), .tick [], .tick [], .tick []] s = .next t ∧
      CallOf s.params s.cfg.attCurrent f.current.toNat f.current.toNat s.cfg.iRef current ∧
      CallOf s.params s.cfg.attPower f.power.toInt f.power.toInt s.cfg.pRef power ∧
      CallOf s.params s.cfg.attVoltage f.voltage.toNat f.voltage.toNat s.cfg.vRef voltage ∧
      CallOf s.params s.cfg.attFrequency f.period.toNat 1000000 (.finite ((f.period.toNat : Int) : Rat)) frequency ∧
      CallOf s.params s.cfg.attEnergy f.energy.toNat f.energy.toNat s.cfg.eRef energy ∧
      blockTxOf t.out = blockTxOf s.out ++ [0x58, 0xAA] ∧
      emissionsOf t.out = emissionsOf s.out ++
        ((if s.cfg.attCurrent || s.cfg.attPower then [.group0 current power] else []) ++
         (if s.cfg.attVoltage || s.cfg.attFrequency then [.group1 voltage frequency] else []) ++
         (if s.cfg.attEnergy then [.group2 energy] else [])) ∧
      t.wo = 17 ∧ t.cur = .idle ∧ t.pend = false

/-! ## Encodings -/

/-- R84, R85, R87: the key of a well-formed operation decodes to it. -/
def Obligations.KeysOfOperationsDecodeToThem : Prop :=
  ∀ i : Instr, i.wellFormed = true → decode (encode i) = .ok i

/-- Words written out from R84, R85, R83 and S10: keys and a packet of 95_test_vectors.md (V10). -/
def Obligations.WrittenOutWordsDecode : Prop :=
  decode (.rxb 0b00001 0xE8) = .ok (.feedStore 0xE8) ∧ decode (.rxb 0b01111 0x55) = .ok (.feedStore 0x55) ∧
  decode (.rxb 0b10000 0xD8) = .ok (.feedCheck 0xD8) ∧ decode (.rxb 0b10001 0b01010101) = .ok .feedHdr ∧
  decode (.rxb 0b10001 0x54) = .ok (.feedResync 0x54) ∧ decode (.rxb 0b11111 0x55) = .ok .feedHdr ∧
  decode (.grp 0b00) = .ok .pubG0 ∧ decode (.grp 0b01) = .ok .pubG1 ∧ decode (.grp 0b10) = .ok .pubG2 ∧
  decode (.grp 0b11) = .ok .pubIdle ∧ decodeTableWord 16 0b0101100010101010 = some .trig ∧
  decodePacket [0x55, 0xE8, 0x03, 0x00, 0x01, 0x02, 0x03, 0xFF, 0xFF, 0xFF, 0x20, 0x4E, 0x00, 0x10, 0x0E, 0x00, 0xD8] =
    .ok { current := 1000, voltage := 0x030201, power := 0xFFFFFF, period := 20000, energy := 3600 }

/-- R81, R82: decoding the packet of any five fields gives them back, every field at every value. -/
def Obligations.PacketsOfFieldsDecodeToThem : Prop :=
  ∀ f : Fields, decodePacket (encodePacket f) = .ok f

/-- R82, R90: a byte string is read as a packet exactly when it is valid, and it is then the packet of the fields read. -/
def Obligations.OnlyValidPacketsDecode : Prop :=
  ∀ p : List Byte, (ValidPacket p ↔ ∃ f, decodePacket p = .ok f) ∧
    ∀ f, decodePacket p = .ok f → encodePacket f = p

/-! ## A step -/

/-- R87, R171: with one strobe asserted a step is exec of the operation it selects, the tick's operand being all the bytes
that wait; with none asserted, and with no stimulus at all, nothing happens (R174). -/
def Obligations.StepRunsTheStrobedOperation : Prop :=
  ∀ (s : State) (rest : List Stimulus),
    (s.stimuli = .strobes true false false :: rest → step s = exec .reset { s with stimuli := rest }) ∧
    (s.stimuli = .strobes false true false :: rest → step s = exec .req { s with stimuli := rest }) ∧
    (s.stimuli = .strobes false false true :: rest →
      step s = exec (.tick s.rx) { s with stimuli := rest, rx := [] }) ∧
    (s.stimuli = .strobes false false false :: rest → step s = .next { s with stimuli := rest }) ∧
    (s.stimuli = [] → step s = .next s)

/-- A step at a state in which a key is laid out is exec of the operation the key decodes to, on a state that differs only
in what selects the operation (log entry 17). -/
def Obligations.StepRunsThePlacedOperation : Prop :=
  ∀ (s : State) (k : Key) (i : Instr), decode k = .ok i →
    ∃ u, step (placeKey s k) = exec i u ∧
      u.buf = s.buf ∧ u.csum = s.csum ∧ u.params = s.params ∧ u.cfg = s.cfg ∧ u.out = s.out ∧
      u.stimuli = s.stimuli ∧ u.draws = s.draws ∧ u.resets = s.resets

/-- R30, R53, R232, R233: what a step does when the environment acts outside the block's operations. Another party's bytes
are added after every output so far, which stay as they are; the last two equations say what that is on the outbound
stream and on the block's own part of it. -/
def Obligations.StepTakesTheEnvironmentsActs : Prop :=
  ∀ (s : State) (rest : List Stimulus),
    (∀ bs, s.stimuli = .arrive bs :: rest → step s = .next { s with stimuli := rest, rx := s.rx ++ bs }) ∧
    (∀ c, s.stimuli = .configure c :: rest → step s = .next { s with stimuli := rest, cfg := c }) ∧
    (∀ bs, s.stimuli = .foreignTx bs :: rest → ∃ t, step s = .next t ∧
      t = { s with stimuli := rest, out := s.out ++ bs.map Output.foreignTx } ∧
      outboundOf t.out = outboundOf s.out ++ bs ∧ blockTxOf t.out = blockTxOf s.out)

/-- R176: strobes asserted together run in the order RESET, REQ, TICK. -/
def Obligations.CoincidentStrobesRunInOrder : Prop :=
  ∀ (s : State) (rst req tick : Bool) (rest : List Stimulus), s.stimuli = .strobes rst req tick :: rest →
    ∃ t1 t2 t3,
      (if rst then exec .reset { s with stimuli := rest } = .next t1 else t1 = { s with stimuli := rest }) ∧
      (if req then exec .req t1 = .next t2 else t2 = t1) ∧
      (if tick then exec (.tick s.rx) { t2 with rx := [] } = .next t3 else t3 = t2) ∧
      step s = .next t3

/-- R176, U9: a strobe asserted while an operation is in progress has no meaning and is refused. -/
def Obligations.OverlappingOperationIsRefused : Prop :=
  ∀ (s : State) (rest : List Stimulus), s.stimuli = .overlap :: rest →
    step s = .refused .overlappingOperation

/-! ## Invariants -/

/-- R32: the reset state meets the invariants. -/
def Obligations.ResetStateMeetsTheInvariants : Prop := Inv State.reset ∧ NoTornPublish State.reset

/-- R32 items 1 to 4 and 6: every step keeps them, and the canonical form of the buffer. -/
def Obligations.StepKeepsTheInvariant : Prop :=
  ∀ s t : State, Inv s → step s = .next t → Inv t

/-- R226, its last sentence, which the spec marks as derived from R111, R113 and R137 to R139: with HDR_IDLES_CURSOR true,
every step keeps it that a group is pending only while a header is awaited, and a step that leaves a group pending and
presents no ChecksumOk leaves every cell of BUF as it was. So all that is published after a ChecksumOk is read from the
BUF that the ChecksumOk left. -/
def Obligations.StepKeepsThatNoPublishIsTorn : Prop :=
  ∀ s t : State, NoTornPublish s → step s = .next t →
    NoTornPublish t ∧
    ∃ new, t.out = s.out ++ new ∧
      (s.params.hdrIdlesCursor = true → t.cur ≠ .idle → (∀ e g, .checksumOk e g ∉ eventsOf new) → SameBuffer s t)

/-- R31 item 2: CUR leaves idle only in a step that reports a ChecksumOk. -/
def Obligations.CursorLeavesIdleOnlyOnChecksumOk : Prop :=
  ∀ s t : State, step s = .next t → s.cur = .idle → t.cur ≠ .idle →
    ∃ new, t.out = s.out ++ new ∧ ∃ e g, .checksumOk e g ∈ eventsOf new

/-- R32 items 3 to 5, U1: the contents that RESET leaves unspecified are never observed. Two states that agree on all else
stay so at every step, with the same outputs. -/
def Obligations.UnspecifiedContentsAreNeverObserved : Prop :=
  ∀ s₁ s₂ t₁ : State, SameToObserver s₁ s₂ → step s₁ = .next t₁ →
    ∃ t₂, step s₂ = .next t₂ ∧ SameToObserver t₁ t₂
end

