-- ==== Sys2Proof/Tests/Slice0.lean ====
section
/-! SUPPORT. Tests. Expected results are those of spec/95_test_vectors.md (S…, V…, packets PA to PS) or are worked by hand from
the rule named; then a witness for the hypotheses of each obligation that has any. -/

namespace Sys2Proof.Tests

open Sys2Proof Sys2Proof.Machine

/-! ## Helpers -/

/-- Packet PA of 95_test_vectors.md. -/
def packetA : List Byte :=
  [0x55, 0xE8, 0x03, 0x00, 0x01, 0x02, 0x03, 0xFF, 0xFF, 0xFF, 0x20, 0x4E, 0x00, 0x10, 0x0E, 0x00, 0xD8]

/-- Packet PM: every field at an extreme. -/
def packetM : List Byte :=
  [0x55, 0xFF, 0xFF, 0xFF, 0xFF, 0xFF, 0xFF, 0x00, 0x00, 0x80, 0xFF, 0xFF, 0xFF, 0xFF, 0xFF, 0xFF, 0xDE]

/-- Packet PZ: every field zero. -/
def packetZ : List Byte :=
  [0x55, 0x00, 0x00, 0x00, 0x00, 0x00, 0x00, 0x00, 0x00, 0x00, 0x00, 0x00, 0x00, 0x00, 0x00, 0x00, 0x52]

/-- A state in the notation of the vectors: WO, CSUM, CUR, PEND and the cells written from position 0. -/
def at' (wo : BitVec 5) (csum : Byte) (cur : Cursor) (pend : Bool) (cells : List Byte) : State :=
  { State.reset with wo := wo, csum := csum, cur := cur, pend := pend, buf := (List.range cells.length).zip cells }

/-- A view of the state an operation answers, none where it stops. -/
def view {α : Type} (f : State → α) : Result → Option α
  | .next s => some (f s)
  | .fault _ => none
  | .refused _ => none

/-- The four registers beside BUF. -/
def regs (s : State) : BitVec 5 × Byte × Cursor × Bool := (s.wo, s.csum, s.cur, s.pend)

/-! ## Well-formedness -/

theorem test_wellFormed_refuses_resync_of_the_sentinel : (Instr.feedResync 0x55).wellFormed = false := by decide

theorem test_wellFormed_admits_resync_of_a_neighbour : (Instr.feedResync 0x54).wellFormed = true := by decide

/-! ## Decoding: words written out from R84, R85, R87, R93 -/

theorem test_decode_feedStore : decode (.rxb 0b01111 0b11101000) = .ok (.feedStore 0xE8) := by decide
theorem test_decode_feedStore_sentinel_as_data : decode (.rxb 0b00011 0b01010101) = .ok (.feedStore 0x55) := by decide
theorem test_decode_feedCheck : decode (.rxb 0b10000 0b01010101) = .ok (.feedCheck 0x55) := by decide
theorem test_decode_feedHdr : decode (.rxb 0b10001 0b01010101) = .ok .feedHdr := by decide
theorem test_decode_feedResync : decode (.rxb 0b10010 0b01010100) = .ok (.feedResync 0x54) := by decide
theorem test_decode_pubG0 : decode (.grp 0b00) = .ok .pubG0 := by decide
theorem test_decode_pubG1 : decode (.grp 0b01) = .ok .pubG1 := by decide
theorem test_decode_pubG2 : decode (.grp 0b10) = .ok .pubG2 := by decide
theorem test_decode_pubIdle : decode (.grp 0b11) = .ok .pubIdle := by decide
theorem test_decode_strobes : decode .rst = .ok .reset ∧ decode .req = .ok .req ∧ decode (.tick [7]) = .ok (.tick [7]) ∧
    decode .int = .ok .trig := by decide

/-- R176: RESET, then REQ, then TICK. -/
theorem test_decodeStrobes_order : decodeStrobes true true true [7] = [.reset, .req, .tick [7]] := by decide

theorem test_decodeTableWord : decodeTableWord 8 0x55 = some .feedHdr ∧ decodeTableWord 8 0xA5 = some (.feedResync 0xA5) ∧
    decodeTableWord 8 0x1 = some .pubG1 ∧ decodeTableWord 16 0x58AA = some .trig ∧
    decodeTableWord 16 0x12 = some (.feedStore 0x12) ∧ decodeTableWord 24 0xD8 = some (.feedCheck 0xD8) ∧
    decodeTableWord 0 0 = none := by decide

/-- No two rows of R84 with the same order: a WO and a byte match one class only, the HDR row before the RESYNC row. -/
theorem test_feedRows_boundaries : firstFeedRow feedRows 15 0x55 = some .store ∧ firstFeedRow feedRows 16 0x55 = some .check ∧
    firstFeedRow feedRows 17 0x55 = some .hdr ∧ firstFeedRow feedRows 17 0x56 = some .resync ∧
    firstFeedRow feedRows 31 0x55 = some .hdr ∧ firstFeedRow feedRows 0 0xFF = some .store := by decide

/-- PA, PM, PZ of 95_test_vectors.md (V10, R82). -/
theorem test_encodePacket :
    encodePacket { current := 1000, voltage := 0x030201, power := -1, period := 20000, energy := 3600 } = packetA ∧
    encodePacket { current := 0xFFFFFF, voltage := 0xFFFFFF, power := 0x800000, period := 0xFFFFFF, energy := 0xFFFFFF }
      = packetM ∧
    encodePacket { current := 0, voltage := 0, power := 0, period := 0, energy := 0 } = packetZ := by decide

/-- R82, R90: a wrong length, a wrong first byte, a wrong checksum (expected D8). -/
theorem test_decodePacket_rejects :
    decodePacket (packetA.take 16) = .error (.wrongLength 16) ∧
    decodePacket (packetA.set 0 0x54) = .error (.noSentinel 0x54) ∧
    decodePacket (packetA.set 16 0xD9) = .error (.checksumMismatch 0xD8 0xD9) := by decide

/-! ## The Frame Assembler -/

/-- V1: the sum wraps. -/
theorem test_feedStore_wraps :
    view (fun s => (regs s, s.buf.find 1, s.out)) (exec (.feedStore 0xE8) (at' 1 0xAD .idle false [0x55])) =
      some ((2, 0x95, .idle, false), some 0xE8, [.event (.continued 0xE8)]) := by decide

/-- V6: the last cell of the fill region; WO becomes 16. -/
theorem test_feedStore_last :
    view (fun s => (regs s, s.buf.find 15, s.buf.find 16)) (exec (.feedStore 0xFF) (at' 15 0xFF .idle false [])) =
      some ((16, 0xFE, .idle, false), some 0xFF, none) := by decide

/-- V9: OK; CSUM and BUF[16] unwritten. -/
theorem test_feedCheck_match :
    view (fun s => (regs s, s.buf.find 16, s.out)) (exec (.feedCheck 0xD8) (at' 16 0x27 .idle false packetA.dropLast)) =
      some ((17, 0x27, .awaitingGroup0, false), none, [.event (.checksumOk 0xD8 0xD8)]) := by decide

/-- V12: the uninverted sum is refused and the cursor stays. -/
theorem test_feedCheck_mismatch :
    view (fun s => (regs s, s.out)) (exec (.feedCheck 0x27) (at' 16 0x27 .awaitingGroup2 false packetA.dropLast)) =
      some ((17, 0x27, .awaitingGroup2, false), [.event (.checksumFail 0xD8 0x27)]) := by decide

/-- V7: the cursor stays without HDR_IDLES_CURSOR (V47). -/
theorem test_feedHdr :
    view (fun s => (regs s, s.buf.find 0, s.out)) (exec .feedHdr (at' 17 0x27 .awaitingGroup0 false packetA.dropLast)) =
      some ((1, 0xAD, .awaitingGroup0, false), some 0x55, [.event (.continued 0x55)]) := by decide

/-- V7, V47: under HDR_IDLES_CURSOR the cursor becomes idle. -/
theorem test_feedHdr_idles :
    view regs (exec .feedHdr (
      let s := at' 17 0x27 .awaitingGroup0 false packetA.dropLast
      { s with params := { s.params with hdrIdlesCursor := true } })) = some (1, 0xAD, .idle, false) := by decide

/-- V8: a neighbour of the sentinel changes nothing. -/
theorem test_feedResync :
    view id (exec (.feedResync 0x54) (at' 17 0x27 .awaitingGroup1 true packetA.dropLast)) =
      some { at' 17 0x27 .awaitingGroup1 true packetA.dropLast with out := [.event (.resyncError 0x54)] } := by
  decide +kernel

/-- R114: not selected for the sentinel, which R110 gives to FEED.HDR. -/
theorem test_feedResync_sentinel_not_selected :
    exec (.feedResync 0x55) (at' 17 0 .idle false []) = .refused (.notSelected "FEED.RESYNC") := rfl

/-! ## Field accessors and scaling -/

/-- V24 (S1), V25 (S2), V26, V27, V28, V30; the torn voltage of program P2. -/
theorem test_field_accessors :
    (at' 17 0 .idle false [0x01, 0x02, 0x03]).u24 0 = 0x030201 ∧
    (at' 17 0 .idle false [0xFF, 0xFF, 0xFF]).u24 0 = 16777215 ∧ (at' 17 0 .idle false [0xFF, 0xFF, 0xFF]).s24 0 = -1 ∧
    (at' 17 0 .idle false [0xFF, 0xFF, 0x7F]).s24 0 = 8388607 ∧
    (at' 17 0 .idle false [0x00, 0x00, 0x80]).s24 0 = -8388608 ∧
    (at' 17 0 .idle false [0x01, 0x00, 0x80]).s24 0 = -8388607 ∧
    (at' 17 0 .idle false [0x03, 0x02, 0x01]).u24 0 = 66051 ∧
    (at' 6 0x23 .awaitingGroup1 false [0x55, 0xD0, 0x07, 0x00, 0x00, 0x9F, 0x03]).u24 4 = 237312 := by decide

/-- V31a, V31e, V31j, V31k, V31l: exact quotients. -/
theorem test_scale_exact :
    (State.reset.scale 1000 (.finite 10)).1 = .finite 100 ∧
    (State.reset.scale 1000000 (.finite 1)).1 = .finite 1000000 ∧
    (State.reset.scale 16777215 (.finite 10)).1 = .finite (3355443 / 2) ∧
    (State.reset.scale 0 (.finite 10)).1 = .finite 0 ∧
    (State.reset.scale 5000 (.finite (-2))).1 = .finite (-2500) := by decide +kernel

/-- V31b: binary32 nearest to -1/10 is -13421773 / 2^27, -0.100000001490116... -/
theorem test_scale_rounded : (State.reset.scale (-1) (.finite 10)).1 = .finite (-13421773 / 134217728) := by
  decide +kernel

/-- V31d: not the integer 59. The nearest multiple of 2^-18 to 1000000 / 16667. -/
theorem test_scale_not_integer : (State.reset.scale 1000000 (.finite 16667)).1 = .finite (15728325 / 262144) := by
  decide +kernel

/-- V31g, V31h: a draw, which no test can expect a value of; only the count of draws moves. -/
theorem test_scale_zero : (State.reset.scale 1000 (.finite 0)).2 = { State.reset with draws := 1 } := rfl

/-! ## The Field Publisher -/

/-- V32a. -/
theorem test_pubG0 :
    view (fun s => (s.cur, s.out)) (exec .pubG0 (at' 17 0x27 .awaitingGroup0 false packetA.dropLast)) =
      some (.awaitingGroup1, [.emission (.group0 (some ⟨1000, .finite 100⟩) (some ⟨-1, .finite (-13421773 / 134217728)⟩))]) := by
  decide +kernel

/-- V35: power alone; the other channel makes no call. -/
theorem test_pubG0_partly_attached :
    view (fun s => (s.cur, s.out)) (exec .pubG0 (
      let s := at' 17 0x27 .awaitingGroup0 false packetA.dropLast
      { s with cfg := { s.cfg with attCurrent := false } })) =
      some (.awaitingGroup1, [.emission (.group0 none (some ⟨-1, .finite (-13421773 / 134217728)⟩))]) := by
  decide +kernel

/-- V37: the frequency alone, with the raw period beside it. -/
theorem test_pubG1 :
    view (fun s => (s.cur, s.out)) (exec .pubG1 (
      let s := at' 17 0x27 .awaitingGroup1 false packetA.dropLast
      { s with cfg := { s.cfg with attVoltage := false } })) =
      some (.awaitingGroup2, [.emission (.group1 none (some ⟨20000, .finite 50⟩))]) := by
  decide +kernel

/-- V39a, the frequency: a raw period of zero is a draw, and the cursor moves. -/
theorem test_pubG1_period_zero :
    view (fun s => (s.cur, s.out, s.draws)) (exec .pubG1 (
      let s := at' 17 0xAD .awaitingGroup1 false packetZ.dropLast
      { s with cfg := { s.cfg with attVoltage := false } })) =
      some (.awaitingGroup2, [.emission (.group1 none (some ⟨0, Config.draw 0⟩))], 1) := by
  rfl

/-- V32c. -/
theorem test_pubG2 :
    view (fun s => (s.cur, s.out)) (exec .pubG2 (at' 17 0x27 .awaitingGroup2 false packetA.dropLast)) =
      some (.idle, [.emission (.group2 (some ⟨3600, .finite 360⟩))]) := by
  decide +kernel

/-- V38: nothing attached, the cursor moves all the same; a pending request stays (C5). -/
theorem test_pubG2_detached :
    view (fun s => (regs s, s.out)) (exec .pubG2 (
      let s := at' 17 0x27 .awaitingGroup2 true packetA.dropLast
      { s with cfg := { s.cfg with attEnergy := false } })) = some ((17, 0x27, .idle, true), []) := by
  decide

/-- V33. -/
theorem test_pubIdle : exec .pubIdle (at' 17 0x27 .idle true packetA.dropLast) = .next (at' 17 0x27 .idle true packetA.dropLast) :=
  rfl

/-! ## Trigger, tick, reset -/

/-- V43. -/
theorem test_req_pending : view (fun s => (regs s, s.out)) (exec .req (at' 17 0 .idle true [])) =
    some ((17, 0, .idle, true), []) := by decide

/-- V40, S11. -/
theorem test_trig_pending : view (fun s => (s.pend, s.out)) (exec .trig (at' 17 0 .idle true [])) =
    some (false, [.tx 0x58, .tx 0xAA]) := by decide

/-- V41. -/
theorem test_trig_not_pending : exec .trig (at' 17 0 .idle false []) = .next (at' 17 0 .idle false []) := rfl

/-- V45: TRIG also after a drain, and last. -/
theorem test_tick_drains_then_triggers :
    view (fun s => (regs s, s.out)) (exec (.tick [0x00]) (at' 17 0 .idle true [])) =
      some ((17, 0, .idle, false), [.event (.resyncError 0x00), .tx 0x58, .tx 0xAA]) := by decide

/-- V46: no ADVANCE in a tick that drained. -/
theorem test_tick_does_not_publish_what_it_drained :
    view (fun s => (regs s, s.out)) (exec (.tick [0xD8]) (at' 16 0x27 .idle false packetA.dropLast)) =
      some ((17, 0x27, .awaitingGroup0, false), [.event (.checksumOk 0xD8 0xD8)]) := by decide

/-- V49. CSUM and the cells are left to free values: no cell stays written. -/
theorem test_reset :
    view (fun s => (s.wo, s.cur, s.pend, s.buf.isEmpty, s.out.isEmpty))
      (exec .reset (at' 6 0x23 .awaitingGroup1 true [0x55, 0xD0, 0x07, 0x00, 0x00, 0x9F, 0x03])) =
      some (17, .idle, false, true, true) := by decide

/-! ## Steps -/

/-- The host's view of a row: the word of FEED.HDR, laid out after reset, runs as the first operation. -/
theorem test_step_runs_the_laid_out_word :
    view (fun s => (s.wo, s.buf, s.out)) (step (State.reset.withFetchWord 8 0x55)) =
      some (1, [(0, 0x55)], [.event (.continued 0x55)]) := by decide

/-- R176: RESET and REQ and TICK together leave the request of the REQ served by the TICK. -/
theorem test_step_coincident_strobes :
    view (fun s => (s.wo, s.cur, s.pend, s.out, s.rx))
      (step { at' 6 0x23 .awaitingGroup1 false [0x55] with stimuli := [.strobes true true true], rx := [0x00] }) =
      some (17, .idle, false, [.event (.resyncError 0x00), .tx 0x58, .tx 0xAA], []) := by decide

/-! ## Witnesses: the hypotheses of each obligation, met together -/

/-- A state awaiting a header, with a request pending and packet PA's cells. -/
def awaiting (cur : Cursor) : State := at' 17 0x27 cur true packetA.dropLast

/-- The same with WO anywhere. -/
def withWo (wo : BitVec 5) : State := { awaiting .idle with wo := wo }

/-- The same with one stimulus to come. -/
def facing (x : Stimulus) : State := { awaiting .awaitingGroup1 with stimuli := [x], rx := [0x55] }

/-- Both ends of the fill region. -/
theorem witness_FeedStoreWritesItsCellAndAddsToTheChecksum : (withWo 0).wo.toNat ≤ 15 ∧ (withWo 15).wo.toNat ≤ 15 := by decide

/-- A byte that matches (D8) and one that does not (27). -/
theorem witness_FeedCheckJudgesTheChecksumByte :
    (withWo 16).wo = 16 ∧ (0xD8 : Byte) = (withWo 16).csum ^^^ 0xFF ∧ (0x27 : Byte) ≠ (withWo 16).csum ^^^ 0xFF := by decide

/-- Both ends of the awaiting values, and both values of the parameter. -/
theorem witness_FeedHdrStartsAPacket :
    17 ≤ (withWo 17).wo.toNat ∧ 17 ≤ (withWo 31).wo.toNat ∧ (withWo 17).params.hdrIdlesCursor = false ∧
    17 ≤ { awaiting .awaitingGroup0 with params := { defaultParams with hdrIdlesCursor := true } }.wo.toNat := by decide

/-- Both neighbours of the sentinel. -/
theorem witness_FeedResyncOnlyReportsTheByte :
    17 ≤ (withWo 17).wo.toNat ∧ 17 ≤ (withWo 31).wo.toNat ∧ (0x54 : Byte) ≠ 0x55 ∧ (0x56 : Byte) ≠ 0x55 := by decide

/-- Each clause at the ends of its range. -/
theorem witness_FeedPresentsOneCodedEvent :
    (withWo 0).wo.toNat < 16 ∧ (withWo 15).wo.toNat < 16 ∧
    ((withWo 16).wo.toNat = 16 ∧ (0xD8 : Byte) = (withWo 16).csum ^^^ 0xFF ∧ (0x27 : Byte) ≠ (withWo 16).csum ^^^ 0xFF) ∧
    17 ≤ (withWo 17).wo.toNat ∧ 17 ≤ (withWo 31).wo.toNat := by decide

/-- Each clause, at both ends where its range has two. -/
theorem witness_WriteOffsetMovesAsTheTableSays :
    ((∃ t, feed 0x12 (withWo 0) = .next t) ∧ (withWo 0).wo.toNat ≤ 15) ∧
    ((∃ t, feed 0x12 (withWo 15) = .next t) ∧ (withWo 15).wo.toNat ≤ 15) ∧
    ((∃ t, feed 0x12 (withWo 16) = .next t) ∧ (withWo 16).wo.toNat = 16) ∧
    ((∃ t, feed 0x55 (withWo 17) = .next t) ∧ 17 ≤ (withWo 17).wo.toNat) ∧
    ((∃ t, feed 0x54 (withWo 31) = .next t) ∧ 17 ≤ (withWo 31).wo.toNat) :=
  ⟨⟨⟨_, rfl⟩, by decide⟩, ⟨⟨_, rfl⟩, by decide⟩, ⟨⟨_, rfl⟩, by decide⟩, ⟨⟨_, rfl⟩, by decide⟩, ⟨⟨_, rfl⟩, by decide⟩⟩

/-- The last store, WO at 17, and addresses just outside the fill region. -/
theorem witness_NoOperationWritesPastTheFillRegion :
    ((∃ t, exec (.feedStore 0x12) (withWo 15) = .next t) ∧ (withWo 15).wo.toNat ≤ 17) ∧
    ((∃ t, exec (.tick [0x55, 0x01]) (withWo 17) = .next t) ∧ (withWo 17).wo.toNat ≤ 17) ∧
    Instr.feedStore 0x12 ≠ .reset ∧ 16 ≤ 16 :=
  ⟨⟨⟨_, rfl⟩, by decide⟩, ⟨⟨_, rfl⟩, by decide⟩, by decide, by decide⟩

/-- No byte after the header, and all fifteen. -/
theorem witness_PartialPacketFillsOnlyTheCellsBelowWo :
    17 ≤ (withWo 17).wo.toNat ∧ ([] : List Byte).length ≤ 15 ∧ (List.replicate 15 (0x55 : Byte)).length ≤ 15 := by decide

/-- PA, PM and PZ, from both ends of the awaiting values. -/
theorem witness_ValidPacketIsAccepted :
    ValidPacket packetA ∧ ValidPacket packetM ∧ ValidPacket packetZ ∧ 17 ≤ (withWo 17).wo.toNat ∧ 17 ≤ (withWo 31).wo.toNat := by
  refine ⟨⟨?_, ?_, ?_⟩, ⟨?_, ?_, ?_⟩, ⟨?_, ?_, ?_⟩, ?_, ?_⟩ <;> decide

/-- The first byte after the header, and the checksum byte. -/
theorem witness_OneChangedByteIsRejected :
    ValidPacket packetA ∧ 17 ≤ (withWo 17).wo.toNat ∧ (1 ≤ 1 ∧ 1 ≤ 16 ∧ (0xE9 : Byte) ≠ packetA.getD 1 0) ∧
    (1 ≤ 16 ∧ 16 ≤ 16 ∧ (0xD9 : Byte) ≠ packetA.getD 16 0) := by
  refine ⟨⟨?_, ?_, ?_⟩, ?_, ?_, ?_⟩ <;> decide

/-- The bytes of V8. -/
theorem witness_StrayBytesAreOnlyReported :
    17 ≤ (withWo 17).wo.toNat ∧ ∀ b ∈ ([0x00, 0x54, 0x56, 0xAA, 0x58, 0xFF] : List Byte), b ≠ 0x55 := by decide

theorem witness_PubG0PublishesCurrentAndPower : (awaiting .awaitingGroup0).cur = .awaitingGroup0 := rfl
theorem witness_PubG1PublishesVoltageAndFrequency : (awaiting .awaitingGroup1).cur = .awaitingGroup1 := rfl
theorem witness_PubG2PublishesEnergy : (awaiting .awaitingGroup2).cur = .awaitingGroup2 := rfl
theorem witness_PubIdleDoesNothing : (awaiting .idle).cur = .idle := rfl

/-- A finite divisor whose quotient is held exactly, and the three kinds that draw. -/
theorem witness_ScaleRoundsTheExactQuotient :
    ((1 : Rat) ≠ 0 ∧ represents State.reset.params.format (((5 : Int) : Rat) / 1) = true) ∧
    (∀ q : Rat, FloatVal.finite 0 = .finite q → q = 0) ∧ (∀ q : Rat, FloatVal.nan = .finite q → q = 0) ∧
    (∀ q : Rat, FloatVal.infinity true = .finite q → q = 0) := by
  refine ⟨⟨by decide, by decide +kernel⟩, fun q h => ?_, fun q h => ?_, fun q h => ?_⟩
  · exact (FloatVal.finite.inj h).symm
  · exact absurd h (by simp)
  · exact absurd h (by simp)

/-- Each cursor, and both outcomes of the condition: PA's period is 20000, PZ's is 0. -/
theorem witness_UsableReferencesDrawNothing :
    HostObligation (awaiting .awaitingGroup1).cfg ∧ (∃ t, advance (awaiting .awaitingGroup0) = .next t) ∧
    (∃ t, advance (awaiting .awaitingGroup1) = .next t) ∧ unsignedField (awaiting .awaitingGroup1) 10 = 20000 ∧
    (∃ t, advance (at' 17 0xAD .awaitingGroup1 false packetZ.dropLast) = .next t) ∧
    unsignedField (at' 17 0xAD .awaitingGroup1 false packetZ.dropLast) 10 = 0 :=
  ⟨⟨by decide, by decide, by decide, by decide⟩, ⟨_, rfl⟩, ⟨_, rfl⟩, by decide, ⟨_, rfl⟩, by decide⟩

theorem witness_ThreeEmptyTicksPublishTheThreeGroups : (awaiting .awaitingGroup0).cur = .awaitingGroup0 := rfl

/-- Every operation at a state where it is selected. -/
theorem witness_CursorMovesAsTheTableSays :
    (∃ t, exec (.feedStore 1) (withWo 1) = .next t) ∧ (∃ t, exec (.feedCheck 0xD8) (withWo 16) = .next t) ∧
    (∃ t, exec (.feedCheck 0x27) (withWo 16) = .next t) ∧ (∃ t, exec .feedHdr (withWo 17) = .next t) ∧
    (∃ t, exec (.feedResync 1) (withWo 17) = .next t) ∧ (∃ t, exec .pubG0 (awaiting .awaitingGroup0) = .next t) ∧
    (∃ t, exec .pubG1 (awaiting .awaitingGroup1) = .next t) ∧ (∃ t, exec .pubG2 (awaiting .awaitingGroup2) = .next t) ∧
    (∃ t, exec .pubIdle (awaiting .idle) = .next t) ∧ (∃ t, exec .req (awaiting .idle) = .next t) ∧
    (∃ t, exec .trig (awaiting .idle) = .next t) ∧ (∃ t, exec (.tick []) (awaiting .idle) = .next t) ∧
    (∃ t, exec .reset (awaiting .idle) = .next t) :=
  ⟨⟨_, rfl⟩, ⟨_, rfl⟩, ⟨_, rfl⟩, ⟨_, rfl⟩, ⟨_, rfl⟩, ⟨_, rfl⟩, ⟨_, rfl⟩, ⟨_, rfl⟩, ⟨_, rfl⟩, ⟨_, rfl⟩, ⟨_, rfl⟩, ⟨_, rfl⟩, ⟨_, rfl⟩⟩

/-- The smallest positive operands; the quotient of V31d. -/
theorem witness_BinaryExponentBracketsTheQuotient : 0 < 1 ∧ 0 < 16667 ∧ floorLog2 1 1 = 0 ∧ floorLog2 1000000 16667 = 5 := by
  decide +kernel

/-- The two kinds of tie, 1/2 to 0 and 3/2 to 2. -/
theorem witness_SignificandRoundsToNearestEven :
    0 < 2 ∧ 2 * (1 % 2) = 2 ∧ nearestEvenNat 1 2 = 0 ∧ 2 * (3 % 2) = 2 ∧ nearestEvenNat 3 2 = 2 := by decide

theorem witness_NoOperationTouchesItsSurroundings : ∃ t, exec (.tick [0x55, 0x01]) (facing .overlap) = .next t := ⟨_, rfl⟩

theorem witness_DividingAStreamAmongTicksDoesNotMatter :
    State.reset.pend = false ∧ (∀ bs ∈ [packetA.take 5, packetA.drop 5], bs ≠ []) ∧
    [packetA.take 5, packetA.drop 5] ≠ [] := by decide

/-- A request pending, and none. -/
theorem witness_CommandIsTheTicksLastOutput :
    (∃ t, exec (.tick [0x55]) (withWo 17) = .next t) ∧ (withWo 17).pend = true ∧
    (∃ t, exec (.tick []) State.reset = .next t) ∧ State.reset.pend = false := ⟨⟨_, rfl⟩, rfl, ⟨_, rfl⟩, rfl⟩

theorem witness_TickPresentsOneEventForEachByte : ∃ t, exec (.tick [0x55, 0x01]) (withWo 17) = .next t := ⟨_, rfl⟩

/-- A tick that publishes, and one that drains. -/
theorem witness_TickNeverDrainsAndPublishes :
    (∃ t, exec (.tick []) (awaiting .awaitingGroup0) = .next t) ∧
    (∃ t, exec (.tick [0x55]) (awaiting .awaitingGroup0) = .next t) ∧ ([0x55] : List Byte) ≠ [] :=
  ⟨⟨_, rfl⟩, ⟨_, rfl⟩, by decide⟩

theorem witness_RequestsCoalesce : (awaiting .idle).cur = .idle := rfl

theorem witness_EmptyTicksNeverAbandonAPacket : (withWo 0).wo.toNat ≤ 16 ∧ (withWo 16).wo.toNat ≤ 16 := by decide

theorem witness_InputAtEveryTickStarvesThePublisher : ∀ bs ∈ [[(0x55 : Byte)], packetA], bs ≠ [] := by decide

theorem witness_NormalCyclePublishesThePacketsFields : 17 ≤ State.reset.wo.toNat ∧ State.reset.cur = .idle := by decide

/-- The one restricted operand, on both sides of the sentinel, and an unrestricted one. -/
theorem witness_KeysOfOperationsDecodeToThem :
    (Instr.feedResync 0x54).wellFormed = true ∧ (Instr.feedResync 0x56).wellFormed = true ∧
    (Instr.tick []).wellFormed = true := by decide

theorem witness_OnlyValidPacketsDecode : decodePacket packetM =
    .ok { current := 0xFFFFFF, voltage := 0xFFFFFF, power := 0x800000, period := 0xFFFFFF, energy := 0xFFFFFF } := by decide

/-- Each of the five clauses. -/
theorem witness_StepRunsTheStrobedOperation :
    (facing (.strobes true false false)).stimuli = [.strobes true false false] ∧
    (facing (.strobes false true false)).stimuli = [.strobes false true false] ∧
    (facing (.strobes false false true)).stimuli = [.strobes false false true] ∧
    (facing (.strobes false false false)).stimuli = [.strobes false false false] ∧ State.reset.stimuli = [] :=
  ⟨rfl, rfl, rfl, rfl, rfl⟩

/-- A key of each format. -/
theorem witness_StepRunsThePlacedOperation :
    decode (.rxb 15 0x01) = .ok (.feedStore 0x01) ∧ decode (.rxb 31 0x55) = .ok .feedHdr ∧ decode (.grp 3) = .ok .pubIdle ∧
    decode .rst = .ok .reset ∧ decode .req = .ok .req ∧ decode (.tick []) = .ok (.tick []) ∧ decode .int = .ok .trig := by
  decide

/-- Each of the three clauses. -/
theorem witness_StepTakesTheEnvironmentsActs :
    (facing (.arrive packetA)).stimuli = [.arrive packetA] ∧
    (facing (.configure defaultConfig)).stimuli = [.configure defaultConfig] ∧
    (facing (.foreignTx [0xA8])).stimuli = [.foreignTx [0xA8]] := ⟨rfl, rfl, rfl⟩

theorem witness_CoincidentStrobesRunInOrder :
    (facing (.strobes true true true)).stimuli = [.strobes true true true] := rfl

theorem witness_OverlappingOperationIsRefused : (facing .overlap).stimuli = [.overlap] := rfl

/-- A packet in progress, one byte to be drained by the next step. -/
def inProgress : State :=
  { at' 1 0xAD .idle false [0x55] with stimuli := [.strobes false false true], rx := [0xE8] }

theorem witness_StepKeepsTheInvariant : Inv inProgress ∧ ∃ t, step inProgress = .next t := by
  refine ⟨⟨⟨by decide, by decide⟩, fun _ => ⟨by decide, ?_, by decide⟩, fun h => absurd rfl h, ⟨by decide, by decide⟩, by decide⟩,
    ⟨_, rfl⟩⟩
  intro a ha
  have h0 : a = 0 := by have h1 : a < 1 := ha; omega
  subst h0
  decide

/-- The parameter true, a group pending, and the header of the next packet about to be drained. -/
def tearing : State :=
  { facing (.strobes false false true) with params := { defaultParams with hdrIdlesCursor := true } }

/-- The same with a byte that is no sentinel about to be drained: the group stays pending. -/
def noiseWhilePending : State := { tearing with pend := false, rx := [0x54] }

/-- The same with nothing to drain: a group is published and the next one is pending. -/
def publishing : State := { tearing with cur := .awaitingGroup0, rx := [] }

/-- The invariant with a group pending, and the clause about BUF where a byte is drained and where a group is published. -/
theorem witness_StepKeepsThatNoPublishIsTorn :
    (NoTornPublish tearing ∧ tearing.params.hdrIdlesCursor = true ∧ tearing.cur ≠ .idle ∧ ∃ t, step tearing = .next t) ∧
    (NoTornPublish noiseWhilePending ∧ noiseWhilePending.params.hdrIdlesCursor = true ∧
      ∃ t, step noiseWhilePending = .next t ∧ t.cur ≠ .idle ∧ t.out = noiseWhilePending.out ++ [.event (.resyncError 0x54)] ∧
        ∀ e g, .checksumOk e g ∉ eventsOf [.event (.resyncError 0x54)]) ∧
    (NoTornPublish publishing ∧ publishing.params.hdrIdlesCursor = true ∧
      ∃ t, step publishing = .next t ∧ t.cur ≠ .idle ∧ eventsOf t.out = []) :=
  ⟨⟨fun _ _ => by decide, by decide, by decide, ⟨_, rfl⟩⟩,
    ⟨fun _ _ => by decide, by decide, ⟨_, rfl, by decide, rfl, by simp [eventsOf]⟩⟩,
    ⟨fun _ _ => by decide, by decide, ⟨_, rfl, by decide, rfl⟩⟩⟩

/-- The checksum byte of PA about to be drained. -/
def aboutToMatch : State :=
  { at' 16 0x27 .idle false packetA.dropLast with stimuli := [.strobes false false true], rx := [0xD8] }

theorem witness_CursorLeavesIdleOnlyOnChecksumOk :
    ∃ t, step aboutToMatch = .next t ∧ aboutToMatch.cur = .idle ∧ t.cur ≠ .idle := ⟨_, rfl, by decide, by decide⟩

/-- Two states that differ in CSUM and in a cell, while a header is awaited, with a byte about to be drained. -/
theorem witness_UnspecifiedContentsAreNeverObserved :
    SameToObserver { State.reset with stimuli := [.strobes false false true], rx := [0x55] }
      { State.reset with stimuli := [.strobes false false true], rx := [0x55], csum := 1, buf := [(3, 7)] } ∧
    ∃ t, step { State.reset with stimuli := [.strobes false false true], rx := [0x55] } = .next t :=
  ⟨⟨rfl, rfl, rfl, ⟨rfl, rfl, rfl, rfl⟩, rfl, rfl, fun h => absurd h (by decide), fun h => absurd rfl h⟩, ⟨_, rfl⟩⟩

end Sys2Proof.Tests
end

section
/-! PROOFS. The internal operations answer a next state exactly where the dispatch selects them (R5, R110, R136): for each
operation one equivalence, from the state it leaves where it is selected and the inversion lemma of Laws/Exec. -/

namespace Sys2Proof.Machine

/-! ## FEED -/

theorem execFeedStore_completes_iff (b : Byte) (s : State) :
    (∃ t, execFeedStore b s = .next t) ↔ s.wo.toNat < 16 :=
  ⟨fun ⟨_, h⟩ => execFeedStore_selected h, fun h => ⟨_, execFeedStore_next b s h⟩⟩

theorem execFeedCheck_completes_iff (b : Byte) (s : State) :
    (∃ t, execFeedCheck b s = .next t) ↔ s.wo = 16 := by
  refine ⟨fun ⟨_, h⟩ => execFeedCheck_selected h, fun h => ?_⟩
  by_cases hb : b = expectedChecksum s.csum
  · exact ⟨_, execFeedCheck_match b s h hb⟩
  · exact ⟨_, execFeedCheck_mismatch b s h hb⟩

theorem execFeedHdr_completes_iff (s : State) : (∃ t, execFeedHdr s = .next t) ↔ 17 ≤ s.wo.toNat :=
  ⟨fun ⟨_, h⟩ => execFeedHdr_selected h, fun h => ⟨_, execFeedHdr_next s h⟩⟩

theorem execFeedResync_completes_iff (b : Byte) (s : State) :
    (∃ t, execFeedResync b s = .next t) ↔ 17 ≤ s.wo.toNat ∧ b ≠ Config.sentinel :=
  ⟨fun ⟨_, h⟩ => execFeedResync_selected h, fun ⟨h, hb⟩ => ⟨_, execFeedResync_next b s h hb⟩⟩

/-! ## ADVANCE -/

theorem execPubG0_completes_iff (s : State) : (∃ t, execPubG0 s = .next t) ↔ s.cur = .awaitingGroup0 := by
  refine ⟨fun ⟨_, h⟩ => execPubG0_selected h, fun h => ?_⟩
  obtain ⟨_, _, _, -, -, hnext⟩ := execPubG0_next s h
  exact ⟨_, hnext⟩

theorem execPubG1_completes_iff (s : State) : (∃ t, execPubG1 s = .next t) ↔ s.cur = .awaitingGroup1 := by
  refine ⟨fun ⟨_, h⟩ => execPubG1_selected h, fun h => ?_⟩
  obtain ⟨_, _, _, -, -, hnext⟩ := execPubG1_next s h
  exact ⟨_, hnext⟩

theorem execPubG2_completes_iff (s : State) : (∃ t, execPubG2 s = .next t) ↔ s.cur = .awaitingGroup2 := by
  refine ⟨fun ⟨_, h⟩ => execPubG2_selected h, fun h => ?_⟩
  obtain ⟨_, _, -, hnext⟩ := execPubG2_next s h
  exact ⟨_, hnext⟩

/-- The state PUB.IDLE leaves (R140). -/
theorem execPubIdle_next (s : State) (h : s.cur = .idle) : execPubIdle s = .next s := if_pos h

theorem execPubIdle_completes_iff (s : State) : (∃ t, execPubIdle s = .next t) ↔ s.cur = .idle :=
  ⟨fun ⟨_, h⟩ => execPubIdle_selected h, fun h => ⟨_, execPubIdle_next s h⟩⟩

/-! ## The obligation -/

/-- Settles O33: exec of each internal operation is that operation, so the equivalences above give the eight parts; the
bound 15 is the fill size 16 less one, and WO is compared with 16 as a number. -/
theorem unselectedOperationsAreRefused : Obligations.UnselectedOperationsAreRefused := fun s b =>
  ⟨(execFeedStore_completes_iff b s).trans Nat.lt_succ_iff,
    (execFeedCheck_completes_iff b s).trans BitVec.toNat_inj.symm,
    execFeedHdr_completes_iff s,
    execFeedResync_completes_iff b s,
    execPubG0_completes_iff s,
    execPubG1_completes_iff s,
    execPubG2_completes_iff s,
    execPubIdle_completes_iff s⟩

end Sys2Proof.Machine
end

section
/-! PROOFS. The state's own statements (spec/10_state.md): the reset values, the environment's acts on a step, and the
publish cursor's way out of idle. First the views of the outputs over appended outputs, which all of them read. -/

namespace Sys2Proof.Machine

/-! ## Views of appended outputs -/

@[simp] theorem eventsOf_append (xs ys : List Output) : eventsOf (xs ++ ys) = eventsOf xs ++ eventsOf ys := by
  induction xs with
  | nil => rfl
  | cons o rest ih => cases o <;> simp [eventsOf, ih]

@[simp] theorem blockTxOf_append (xs ys : List Output) : blockTxOf (xs ++ ys) = blockTxOf xs ++ blockTxOf ys := by
  induction xs with
  | nil => rfl
  | cons o rest ih => cases o <;> simp [blockTxOf, ih]

@[simp] theorem outboundOf_append (xs ys : List Output) : outboundOf (xs ++ ys) = outboundOf xs ++ outboundOf ys := by
  induction xs with
  | nil => rfl
  | cons o rest ih => cases o <;> simp [outboundOf, ih]

@[simp] theorem blockTxOf_map_foreignTx (bs : List Byte) : blockTxOf (bs.map Output.foreignTx) = [] := by
  induction bs with
  | nil => rfl
  | cons b rest ih => simpa [blockTxOf] using ih

@[simp] theorem outboundOf_map_foreignTx (bs : List Byte) : outboundOf (bs.map Output.foreignTx) = bs := by
  induction bs with
  | nil => rfl
  | cons b rest ih => simpa [outboundOf] using ih

/-! ## The environment's acts (R30, R53, R232, R233) -/

theorem step_arrive {s : State} {bs : List Byte} {rest : List Stimulus} (h : s.stimuli = .arrive bs :: rest) :
    step s = .next { s with stimuli := rest, rx := s.rx ++ bs } := by
  simp [step, fetch, h]

theorem step_configure {s : State} {c : HostConfig} {rest : List Stimulus} (h : s.stimuli = .configure c :: rest) :
    step s = .next { s with stimuli := rest, cfg := c } := by
  simp [step, fetch, h]

theorem step_foreignTx {s : State} {bs : List Byte} {rest : List Stimulus} (h : s.stimuli = .foreignTx bs :: rest) :
    step s = .next { s with stimuli := rest, out := s.out ++ bs.map Output.foreignTx } := by
  simp [step, fetch, h]

/-- Settles O49: the step of each act, and for the foreign bytes the two views of what they append. -/
theorem stepTakesTheEnvironmentsActs : Obligations.StepTakesTheEnvironmentsActs := fun _ _ =>
  ⟨fun _ h => step_arrive h, fun _ h => step_configure h,
    fun _ h => ⟨_, step_foreignTx h, rfl, by simp, by simp⟩⟩

/-! ## The reset values (R33, R8) -/

/-- Settles O32: each value is read off the literal `State.reset`, whose buffer is the empty list. -/
theorem resetStateHasTheGivenValues : Obligations.ResetStateHasTheGivenValues :=
  ⟨rfl, rfl, rfl, fun _ => rfl, rfl⟩

/-! ## CUR leaves idle only by a ChecksumOk (R31 item 2) -/

/-- From `s` to `t` outputs are only added, and a group is pending in `t` only where one was pending in `s` or a ChecksumOk
is among the added outputs. Said of two states, so that it composes along the operations of a step. -/
def PendsOnlyByChecksumOk (s t : State) : Prop :=
  ∃ new, t.out = s.out ++ new ∧ (t.cur ≠ .idle → s.cur ≠ .idle ∨ ∃ e g, .checksumOk e g ∈ eventsOf new)

/-- Whatever is output, as long as no group becomes pending. -/
theorem PendsOnlyByChecksumOk.of_cur {s t : State} (new : List Output) (hout : t.out = s.out ++ new)
    (hcur : t.cur ≠ .idle → s.cur ≠ .idle) : PendsOnlyByChecksumOk s t :=
  ⟨new, hout, fun ht => .inl (hcur ht)⟩

theorem PendsOnlyByChecksumOk.refl (s : State) : PendsOnlyByChecksumOk s s :=
  .of_cur [] (by simp) id

theorem PendsOnlyByChecksumOk.trans {s m t : State} (hsm : PendsOnlyByChecksumOk s m)
    (hmt : PendsOnlyByChecksumOk m t) : PendsOnlyByChecksumOk s t := by
  obtain ⟨new₁, hout₁, hcur₁⟩ := hsm
  obtain ⟨new₂, hout₂, hcur₂⟩ := hmt
  refine ⟨new₁ ++ new₂, by simp [hout₂, hout₁], fun ht => ?_⟩
  rcases hcur₂ ht with hm | ⟨e, g, hmem⟩
  · rcases hcur₁ hm with hs | ⟨e, g, hmem⟩
    · exact .inl hs
    · exact .inr ⟨e, g, by simp [hmem]⟩
  · exact .inr ⟨e, g, by simp [hmem]⟩

/-- Of the five things a FEED can do only the accepted checksum makes a group pending, and it reports so. -/
theorem feed_pendsOnlyByChecksumOk {b : Byte} {s t : State} (h : feed b s = .next t) : PendsOnlyByChecksumOk s t := by
  rcases feed_cases b s with ⟨-, e⟩ | ⟨-, -, e⟩ | ⟨-, -, e⟩ | ⟨-, -, e⟩ | ⟨-, -, e⟩ <;> (rw [e] at h; cases h)
  · exact .of_cur _ rfl id
  · exact ⟨_, rfl, fun _ => .inr ⟨b, b, by simp [eventsOf]⟩⟩
  · exact .of_cur _ rfl id
  · refine .of_cur _ rfl fun ht hs => ht ?_
    simp [hs]
  · exact .of_cur _ rfl id

/-- An ADVANCE leaves an idle cursor where it is. -/
theorem advance_pendsOnlyByChecksumOk {s t : State} (h : advance s = .next t) : PendsOnlyByChecksumOk s t := by
  rcases advance_cases s with ⟨-, e⟩ | ⟨g, x, k, hs, -, e⟩ <;> (rw [e] at h; cases h)
  · exact .refl s
  · exact .of_cur (if g then [.emission x] else []) (by cases g <;> simp) fun _ => hs

theorem execTrig_pendsOnlyByChecksumOk {s t : State} (h : execTrig s = .next t) : PendsOnlyByChecksumOk s t := by
  rcases execTrig_cases s with ⟨-, e⟩ | ⟨-, e⟩ <;> (rw [e] at h; cases h)
  · exact .of_cur _ rfl id
  · exact .refl s

theorem execReset_pendsOnlyByChecksumOk {s t : State} (h : execReset s = .next t) : PendsOnlyByChecksumOk s t := by
  cases h
  exact .of_cur [] (by simp) fun ht => absurd rfl ht

theorem exec_pendsOnlyByChecksumOk {i : Instr} {s t : State} (h : exec i s = .next t) : PendsOnlyByChecksumOk s t :=
  exec_keeps (P := PendsOnlyByChecksumOk s)
    (fun _ _ _ hf hp => hp.trans (feed_pendsOnlyByChecksumOk hf))
    (fun _ _ ha hp => hp.trans (advance_pendsOnlyByChecksumOk ha))
    (fun _ _ ht hp => hp.trans (execTrig_pendsOnlyByChecksumOk ht))
    (fun _ hp => hp)
    (fun _ _ _ hr hp => hp.trans (execReset_pendsOnlyByChecksumOk hr))
    h (.refl s)

/-- The environment's acts do not touch CUR, and the strobes' operations compose. -/
theorem step_pendsOnlyByChecksumOk {s t : State} (h : step s = .next t) : PendsOnlyByChecksumOk s t := by
  rcases step_cases h with ⟨-, rfl⟩ | ⟨bs, rest, -, rfl⟩ | ⟨c, rest, -, rfl⟩ | ⟨bs, rest, -, rfl⟩ |
    ⟨rst, req, tick, rest, -, hr⟩
  · exact .refl _
  · exact .of_cur [] (by simp) id
  · exact .of_cur [] (by simp) id
  · exact .of_cur _ rfl id
  · exact runInOrder_keeps (P := PendsOnlyByChecksumOk s)
      (fun _ _ _ _ hi hp => hp.trans (exec_pendsOnlyByChecksumOk hi)) _ t hr (.of_cur [] (by simp) id)

/-- Settles O55: no group was pending before the step, so one that is pending after it was reported by a ChecksumOk. -/
theorem cursorLeavesIdleOnlyOnChecksumOk : Obligations.CursorLeavesIdleOnlyOnChecksumOk := by
  intro s t h hidle hleft
  obtain ⟨new, hout, hcur⟩ := step_pendsOnlyByChecksumOk h
  exact ⟨new, hout, (hcur hleft).resolve_left (not_not_intro hidle)⟩

end Sys2Proof.Machine
end

section
/-! PROOFS. The packet format (R81, R82, R90): a 24-bit field and its three bytes, the fields read off a byte string, the
decoder against the encoder, and the checksum of a packet with one byte changed. -/

namespace Sys2Proof

open Machine

/-! ## Little-endian fields (R54, R81) -/

theorem le24_extractLsb' (v : Raw24) : le24 (v.extractLsb' 0 8) (v.extractLsb' 8 8) (v.extractLsb' 16 8) = v := by
  rw [le24, BitVec.extractLsb'_append_extractLsb'_eq_extractLsb' (by rfl),
    BitVec.extractLsb'_append_extractLsb'_eq_extractLsb' (by rfl), BitVec.extractLsb'_eq_self]

theorem bytesOf24_le24 (lo mid hi : Byte) : bytesOf24 (le24 lo mid hi) = [lo, mid, hi] := by
  have h0 : (le24 lo mid hi).extractLsb' 0 8 = lo := BitVec.extractLsb'_append_eq_right
  have h8 : (le24 lo mid hi).extractLsb' 8 8 = mid := by
    rw [le24, BitVec.extractLsb'_append_eq_of_le (by decide)]
    exact BitVec.extractLsb'_append_eq_right
  have h16 : (le24 lo mid hi).extractLsb' 16 8 = hi := by
    rw [le24, BitVec.extractLsb'_append_eq_of_le (by decide)]
    exact BitVec.extractLsb'_append_eq_left
  rw [bytesOf24, h0, h8, h16]

theorem length_fieldBytes (f : Fields) : (fieldBytes f).length = 15 := rfl

/-! ## Byte strings of a packet's length -/

theorem take_eq_map_getD {p : List Byte} {n : Nat} (h : n ≤ p.length) :
    p.take n = (List.range n).map (p.getD · 0) := by
  refine List.ext_getElem (by simpa using h) fun a ha _ => ?_
  have hap : a < p.length := by simp at ha; omega
  simp [hap]

theorem take_append_checksumByte {p : List Byte} (h : p.length = 17) : p.take 16 ++ [p.getD 16 0] = p := by
  have hlt : 16 < p.length := by omega
  rw [List.getD_eq_getElem p 0 hlt, List.take_append_getElem, List.take_of_length_le (by omega)]

/-- The five fields at their positions, whatever the first and the last byte. -/
def packetFields (p : List Byte) : Fields where
  current := packetField p Config.posCurrent
  voltage := packetField p Config.posVoltage
  power := packetField p Config.posPower
  period := packetField p Config.posPeriod
  energy := packetField p Config.posEnergy

/-- The bytes before the checksum are the first byte and those of the fields: no byte lies outside them (R81). -/
theorem take_eq_cons_fieldBytes {p : List Byte} (h : p.length = 17) :
    p.take 16 = p.getD 0 0 :: fieldBytes (packetFields p) := by
  have hfields : fieldBytes (packetFields p) = (List.range' 1 15).map (p.getD · 0) := by
    simp only [fieldBytes, packetFields, packetField, bytesOf24_le24]
    rfl
  rw [take_eq_map_getD (by omega), hfields]
  rfl

theorem packetFields_encodePacket (f : Fields) : packetFields (encodePacket f) = f := by
  cases f
  simp [packetFields, packetField, encodePacket, fieldBytes, bytesOf24, le24_extractLsb']

/-! ## Valid packets (R82) -/

theorem encodePacket_valid (f : Fields) : ValidPacket (encodePacket f) := ⟨rfl, rfl, rfl⟩

theorem encodePacket_packetFields {p : List Byte} (h : ValidPacket p) : encodePacket (packetFields p) = p := by
  obtain ⟨hlen, hhdr, hsum⟩ := h
  have hbody : Config.sentinel :: fieldBytes (packetFields p) = p.take 16 := by
    rw [take_eq_cons_fieldBytes hlen, hhdr]
  rw [encodePacket, hbody, ← hsum, take_append_checksumByte hlen]

/-- The decoder accepts exactly the valid packets, and answers their fields. -/
theorem decodePacket_eq_ok_iff (p : List Byte) (f : Fields) :
    decodePacket p = .ok f ↔ ValidPacket p ∧ packetFields p = f := by
  unfold decodePacket ValidPacket
  split_ifs with hlen hhdr hsum
  · exact ⟨nofun, fun h => absurd h.1.1 hlen⟩
  · exact ⟨nofun, fun h => absurd h.1.2.1 hhdr⟩
  · exact ⟨nofun, fun h => absurd h.1.2.2 hsum⟩
  · simp_all [packetFields]

/-- Settles O45: the packet of the fields is valid, and the fields read off it are those it was made of. -/
theorem packetsOfFieldsDecodeToThem : Obligations.PacketsOfFieldsDecodeToThem := fun f =>
  (decodePacket_eq_ok_iff _ _).2 ⟨encodePacket_valid f, packetFields_encodePacket f⟩

/-- Settles O46: the decoder's answer is equivalent to validity, and a valid packet is the one made of its own fields. -/
theorem onlyValidPacketsDecode : Obligations.OnlyValidPacketsDecode := by
  intro p
  refine ⟨by simp [decodePacket_eq_ok_iff], fun f h => ?_⟩
  obtain ⟨hvalid, rfl⟩ := (decodePacket_eq_ok_iff p f).1 h
  exact encodePacket_packetFields hvalid

/-! ## The checksum (R82, R115) -/

theorem packetSum_eq (body : List Byte) : packetSum body = Config.cmdRead + body.sum := by
  simpa [packetSum, List.sum_eq_foldl] using
    List.foldl_assoc (op := HAdd.hAdd) (l := body) (a₁ := Config.cmdRead) (a₂ := 0)

/-- One changed byte changes the checksum: in the sum the other bytes cancel. -/
theorem packetChecksum_set_ne {body : List Byte} {k : Nat} {v : Byte} (hk : k < body.length)
    (hv : v ≠ body.getD k 0) : packetChecksum (body.set k v) ≠ packetChecksum body := by
  intro h
  have hsum : (body.set k v).sum = body.sum := by
    simpa [packetChecksum, packetSum_eq] using h
  rw [List.sum_set', dif_pos hk, add_eq_left, neg_add_eq_zero] at hsum
  rw [List.getD_eq_getElem body 0 hk] at hv
  exact hv hsum.symm

end Sys2Proof
end

section
/-! PROOFS. The Frame Assembler over a whole packet (spec/40_frame_assembler.md): the state that a run of stored bytes
leaves, the state after a header and the bytes behind it, and the verdict on the checksum byte. -/

namespace Sys2Proof.Machine

/-! ## A run of writes -/

/-- Write bytes to consecutive addresses, the first to `a`. -/
def Memory.writeFrom : Memory → Nat → List Byte → Memory
  | m, _, [] => m
  | m, a, b :: rest => Memory.writeFrom (m.write a b) (a + 1) rest

theorem Memory.find_writeFrom_outside (m : Memory) {a x : Nat} {bs : List Byte} (h : x < a ∨ a + bs.length ≤ x) :
    (m.writeFrom a bs).find x = m.find x := by
  induction bs generalizing m a with
  | nil => rfl
  | cons b rest ih =>
    have hlen : (b :: rest).length = rest.length + 1 := rfl
    rw [Memory.writeFrom, ih _ (by omega), Memory.find_write_other m (by omega)]

theorem Memory.find_writeFrom_inside (m : Memory) (a : Nat) {k : Nat} {bs : List Byte} (h : k < bs.length) :
    (m.writeFrom a bs).find (a + k) = some (bs.getD k 0) := by
  induction bs generalizing m a k with
  | nil => cases h
  | cons b rest ih =>
    cases k with
    | zero => simp [Memory.writeFrom, Memory.find_writeFrom_outside, Memory.find_write_same]
    | succ j =>
      simpa [Memory.writeFrom, Nat.add_comm, Nat.add_left_comm] using ih (m.write a b) (a + 1) (by simpa using h)

/-! ## Bytes after the header (R111, R115) -/

/-- The state `s` with the bytes `bs` stored from its write offset on. -/
def State.stored (s : State) (bs : List Byte) : State :=
  { s with
    buf := s.buf.writeFrom s.wo.toNat bs
    wo := s.wo + BitVec.ofNat 5 bs.length
    csum := bs.foldl (· + ·) s.csum
    out := s.out ++ continues bs }

/-- Bytes that fit into the fill region are all stored. -/
theorem feedAll_stored (bs : List Byte) (s : State) (h : s.wo.toNat + bs.length ≤ 16) :
    feedAll bs s = .next (s.stored bs) := by
  induction bs generalizing s with
  | nil => simp [State.stored, Memory.writeFrom, continues]
  | cons b rest ih =>
    have hlen : (b :: rest).length = rest.length + 1 := rfl
    have hlt : s.wo.toNat < 16 := by omega
    have hwo : (s.wo.toNat + 1) % 32 = s.wo.toNat + 1 := Nat.mod_eq_of_lt (by omega)
    rw [feedAll_cons, feed_eq_store b hlt, execFeedStore_next b s hlt, andThen_next, ih _ (by simp [hwo]; omega)]
    simp [State.stored, Memory.writeFrom, continues, hwo, State.present, State.writeCell, BitVec.ofNat_add, add_assoc,
      BitVec.add_comm 1#5]

/-! ## A header and the bytes behind it (R113) -/

/-- The state after a packet's first bytes `body`, the header among them, were fed to `s`. -/
def State.withBody (s : State) (body : List Byte) : State :=
  { s with
    buf := s.buf.writeFrom 0 body
    wo := BitVec.ofNat 5 body.length
    csum := packetSum body
    cur := if s.params.hdrIdlesCursor then .idle else s.cur
    out := s.out ++ continues body }

theorem State.withBody_cell (s : State) {body : List Byte} {a : Nat} (h : a < body.length) :
    (s.withBody body).cell a = body.getD a 0 := by
  have hfind : (s.buf.writeFrom 0 body).find a = some (body.getD a 0) := by
    simpa using s.buf.find_writeFrom_inside 0 h
  simp [State.cell, State.withBody, hfind]

theorem State.withBody_find_above (s : State) {body : List Byte} {a : Nat} (h : body.length ≤ a) :
    (s.withBody body).buf.find a = s.buf.find a :=
  s.buf.find_writeFrom_outside (.inr (by omega))

theorem feedAll_header (rest : List Byte) (s : State) (hwo : 17 ≤ s.wo.toNat) (h : rest.length ≤ 15) :
    feedAll (Config.sentinel :: rest) s = .next (s.withBody (Config.sentinel :: rest)) := by
  rw [feedAll_cons, feed_eq_hdr hwo, execFeedHdr_next s hwo, andThen_next, feedAll_stored _ _ (by simp; omega)]
  simp [State.stored, State.withBody, Memory.writeFrom, continues, State.present, State.writeCell, packetSum,
    BitVec.ofNat_add, add_comm]

/-! ## Whole packets (R112, R116, R117) -/

theorem feedAll_singleton (b : Byte) (s : State) : feedAll [b] s = feed b s := by
  obtain ⟨t, ht⟩ := feed_completes b s
  simp [ht]

/-- Up to the checksum byte a packet is only stored; the rest is the FEED of that byte. -/
theorem feedAll_packet {p : List Byte} {s : State} (hlen : p.length = 17) (hhdr : p.getD 0 0 = Config.sentinel)
    (hwo : 17 ≤ s.wo.toNat) : feedAll p s = execFeedCheck (p.getD 16 0) (s.withBody (p.take 16)) := by
  have hbody := take_eq_cons_fieldBytes hlen
  rw [hhdr] at hbody
  have hcheck : (s.withBody (p.take 16)).wo = 16 := by simp [State.withBody, hlen]
  calc feedAll p s = feedAll (p.take 16 ++ [p.getD 16 0]) s := by rw [take_append_checksumByte hlen]
    _ = feed (p.getD 16 0) (s.withBody (p.take 16)) := by
      rw [feedAll_append, hbody, feedAll_header _ s hwo (length_fieldBytes _).le, andThen_next, feedAll_singleton]
    _ = execFeedCheck (p.getD 16 0) (s.withBody (p.take 16)) := feed_eq_check _ hcheck

/-- The state a valid packet `p`, fed to `s`, leaves. -/
def State.accepted (s : State) (p : List Byte) : State :=
  ({ s.withBody (p.take 16) with wo := 17, cur := .awaitingGroup0 }).present
    (.checksumOk (p.getD 16 0) (p.getD 16 0))

@[simp] theorem State.accepted_cur (s : State) (p : List Byte) : (s.accepted p).cur = .awaitingGroup0 := rfl
@[simp] theorem State.accepted_pend (s : State) (p : List Byte) : (s.accepted p).pend = s.pend := rfl
@[simp] theorem State.accepted_params (s : State) (p : List Byte) : (s.accepted p).params = s.params := rfl
@[simp] theorem State.accepted_cfg (s : State) (p : List Byte) : (s.accepted p).cfg = s.cfg := rfl

theorem feedAll_packet_accepted {p : List Byte} {s : State} (h : ValidPacket p) (hwo : 17 ≤ s.wo.toNat) :
    feedAll p s = .next (s.accepted p) := by
  obtain ⟨hlen, hhdr, hsum⟩ := h
  rw [feedAll_packet hlen hhdr hwo]
  exact execFeedCheck_match _ _ (by simp [State.withBody, hlen]) hsum

theorem feedAll_packet_rejected {p : List Byte} {s : State} (hlen : p.length = 17)
    (hhdr : p.getD 0 0 = Config.sentinel) (hsum : p.getD 16 0 ≠ packetChecksum (p.take 16)) (hwo : 17 ≤ s.wo.toNat) :
    feedAll p s = .next (({ s.withBody (p.take 16) with wo := 17 }).present
      (.checksumFail (packetChecksum (p.take 16)) (p.getD 16 0))) := by
  rw [feedAll_packet hlen hhdr hwo]
  exact execFeedCheck_mismatch _ _ (by simp [State.withBody, hlen]) hsum

theorem State.accepted_cell (s : State) {p : List Byte} (hlen : p.length = 17) {a : Nat} (ha : a < 16) :
    (s.accepted p).cell a = p.getD a 0 := by
  have hbody : (s.accepted p).cell a = (p.take 16).getD a 0 := s.withBody_cell (by simp [hlen, ha])
  simpa [ha] using hbody

theorem State.accepted_field (s : State) {p : List Byte} (hlen : p.length = 17) {a : Nat} (ha : a + 2 < 16) :
    (s.accepted p).field a = packetField p a := by
  rw [State.field, s.accepted_cell hlen (by omega), s.accepted_cell hlen (by omega), s.accepted_cell hlen ha, packetField]

/-- Settles O10: the state of the accepted packet, its cells read off the bytes stored. -/
theorem validPacketIsAccepted : Obligations.ValidPacketIsAccepted := by
  intro p s h hwo
  have hfind : (s.withBody (p.take 16)).buf.find 16 = s.buf.find 16 := s.withBody_find_above (by simp [h.1])
  refine ⟨_, feedAll_packet_accepted h hwo, rfl, fun a ha => s.accepted_cell h.1 ha, hfind, ?_, rfl, rfl, rfl, rfl⟩
  exact congrArg (fun v => v.getD (Config.unspecifiedCell s.resets 16)) hfind

/-- A packet with one byte after the header changed is not valid: a changed checksum byte is not the sum's, and any other
change moves the sum away from the checksum byte. -/
theorem checksum_ne_of_set {p : List Byte} {k : Nat} {v : Byte} (h : ValidPacket p) (hk : k ≤ 16)
    (hv : v ≠ p.getD k 0) : (p.set k v).getD 16 0 ≠ packetChecksum ((p.set k v).take 16) := by
  obtain ⟨hlen, -, hsum⟩ := h
  by_cases hlast : k = 16
  · subst hlast
    rw [List.take_set_of_le le_rfl, ← hsum]
    simpa [hlen] using hv
  · have hsame : (p.set k v).getD 16 0 = p.getD 16 0 := by simp [hlast]
    have hlt : k < 16 := by omega
    rw [hsame, hsum, List.take_set]
    exact (packetChecksum_set_ne (by simp [hlen, hlt]) (by simpa [hlt] using hv)).symm

/-- Settles O11: the changed packet still has its length and its header, so it is stored and then rejected. -/
theorem oneChangedByteIsRejected : Obligations.OneChangedByteIsRejected := by
  intro p s k v h hwo hk1 hk16 hv
  have hlen : (p.set k v).length = 17 := by simp [h.1]
  have hhdr : (p.set k v).getD 0 0 = Config.sentinel := by
    have hk0 : k ≠ 0 := by omega
    simpa [hk0] using h.2.1
  exact ⟨_, feedAll_packet_rejected hlen hhdr (checksum_ne_of_set h hk16 hv) hwo, rfl, rfl, rfl⟩

end Sys2Proof.Machine
end

section
/-! PROOFS. Ticks with no request pending, the three groups published after a packet (spec/41_field_publisher.md R141) and
the normal cycle (spec/70_reset_and_hazards.md R223). -/

namespace Sys2Proof.Machine

/-! ## Views of appended outputs -/

@[simp] theorem emissionsOf_append (xs ys : List Output) :
    emissionsOf (xs ++ ys) = emissionsOf xs ++ emissionsOf ys := by
  induction xs with
  | nil => rfl
  | cons o rest ih => cases o <;> simp [emissionsOf, ih]

@[simp] theorem emissionsOf_map_emission (es : List Emission) : emissionsOf (es.map Output.emission) = es := by
  induction es with
  | nil => rfl
  | cons e rest ih => simpa [emissionsOf] using ih

@[simp] theorem blockTxOf_map_emission (es : List Emission) : blockTxOf (es.map Output.emission) = [] := by
  induction es with
  | nil => rfl
  | cons e rest ih => simpa [blockTxOf] using ih

@[simp] theorem emissionsOf_continues (bs : List Byte) : emissionsOf (continues bs) = [] := by
  induction bs with
  | nil => rfl
  | cons b rest ih => simpa [continues, emissionsOf] using ih

@[simp] theorem blockTxOf_continues (bs : List Byte) : blockTxOf (continues bs) = [] := by
  induction bs with
  | nil => rfl
  | cons b rest ih => simpa [continues, blockTxOf] using ih

/-! ## Ticks (R170, R171) -/

theorem advance_pend {s t : State} (h : advance s = .next t) : t.pend = s.pend := by
  rcases advance_cases s with ⟨-, e⟩ | ⟨g, x, k, -, -, e⟩ <;> (rw [e] at h; cases h; simp)

theorem feedAll_pend {bs : List Byte} {s t : State} (h : feedAll bs s = .next t) : t.pend = s.pend :=
  feedAll_keeps (P := fun u => u.pend = s.pend) (fun _ _ _ hf hp => (feed_frame hf).1.trans hp) bs s t h rfl

/-- With no request pending TRIG adds nothing to a tick. -/
theorem execTick_of_not_pend (bs : List Byte) {s : State} (hp : s.pend = false) :
    execTick bs s = if bs = [] then advance s else feedAll bs s := by
  have htrig {r : Result} (hr : ∃ t, r = .next t) (hkeep : ∀ t, r = .next t → t.pend = s.pend) :
      andThen r execTrig = r := by
    obtain ⟨t, rfl⟩ := hr
    have ht : t.pend = false := (hkeep t rfl).trans hp
    simp [execTrig, ht]
  rw [execTick_eq]
  split
  · exact htrig (advance_completes s) fun _ => advance_pend
  · exact htrig (feedAll_completes bs s) fun _ => feedAll_pend

/-- An empty tick with no request pending is an ADVANCE. -/
theorem exec_emptyTick {s : State} (hp : s.pend = false) : exec (.tick []) s = advance s :=
  execTick_of_not_pend [] hp

/-- A tick with something to drain and no request pending is the drain. -/
theorem exec_drainingTick {bs : List Byte} {s : State} (hbs : bs ≠ []) (hp : s.pend = false) :
    exec (.tick bs) s = feedAll bs s :=
  (execTick_of_not_pend bs hp).trans (if_neg hbs)

/-- An empty tick with nothing to publish is TRIG. -/
theorem exec_emptyTick_of_idle {s : State} (h : s.cur = .idle) : exec (.tick []) s = exec .trig s := by
  simp [exec, execTick, advance, execPubIdle, h]

theorem runInOrder_singleton (run : Instr → State → Result) (i : Instr) (s : State) :
    runInOrder run [i] s = run i s := by
  rw [runInOrder_cons]
  cases run i s <;> rfl

/-- A request taken up by a tick that finds nothing to drain and nothing to publish (R160, R161). -/
theorem request_then_idleTick (s : State) (h : s.cur = .idle) :
    runInOrder exec [.req, .tick []] s = .next { s with out := s.out ++ [.tx 0x58, .tx 0xAA], pend := false } := by
  have hreq : exec .req s = .next { s with pend := true } := rfl
  rw [runInOrder_cons, hreq, andThen_next, runInOrder_singleton, exec_emptyTick_of_idle (s := { s with pend := true }) h]
  rfl

/-! ## The three groups (R137 to R139, R141) -/

/-- The state `s` with the cursor at `c`, after `es` were emitted; `k` is the count of free values. -/
def State.published (s : State) (c : Cursor) (k : Nat) (es : List Emission) : State :=
  { s with cur := c, draws := k, out := s.out ++ es.map Output.emission }

theorem State.emitGroup_eq_published (s : State) (c : Cursor) (k : Nat) (g : Bool) (e : Emission) :
    ({ s with cur := c, draws := k }).emitGroup g e = s.published c k (if g then [e] else []) := by
  cases g <;> simp [State.emitGroup, State.published]

@[simp] theorem State.published_published (s : State) (c c' : Cursor) (k k' : Nat) (es es' : List Emission) :
    (s.published c k es).published c' k' es' = s.published c' k' (es ++ es') := by
  simp [State.published]

/-- The groups that carry the calls given, each if one of its channels is attached. -/
def groupsOf (c : HostConfig) (current power voltage frequency energy : Option Publication) : List Emission :=
  (if c.attCurrent || c.attPower then [Emission.group0 current power] else []) ++
  (if c.attVoltage || c.attFrequency then [Emission.group1 voltage frequency] else []) ++
  (if c.attEnergy then [Emission.group2 energy] else [])

/-- After an accepted packet three empty ticks publish the three groups, each if one of its channels is attached. -/
theorem threeEmptyTicks_next (s : State) (h : s.cur = .awaitingGroup0) (hp : s.pend = false) :
    ∃ (current power voltage frequency energy : Option Publication) (k : Nat),
      CallOf s.params s.cfg.attCurrent (s.u24 1) (s.u24 1) s.cfg.iRef current ∧
      CallOf s.params s.cfg.attPower (s.s24 7) (s.s24 7) s.cfg.pRef power ∧
      CallOf s.params s.cfg.attVoltage (s.u24 4) (s.u24 4) s.cfg.vRef voltage ∧
      CallOf s.params s.cfg.attFrequency (s.u24 10) 1000000 (.finite (s.u24 10)) frequency ∧
      CallOf s.params s.cfg.attEnergy (s.u24 13) (s.u24 13) s.cfg.eRef energy ∧
      runInOrder exec [.tick [], .tick [], .tick []] s =
        .next (s.published .idle k (groupsOf s.cfg current power voltage frequency energy)) := by
  obtain ⟨current, power, k0, hcurrent, hpower, e0⟩ := execPubG0_next s h
  rw [State.emitGroup_eq_published] at e0
  obtain ⟨voltage, frequency, k1, hvoltage, hfrequency, e1⟩ := execPubG1_next (s.published .awaitingGroup1 k0 _) rfl
  rw [State.emitGroup_eq_published, State.published_published] at e1
  obtain ⟨energy, k2, henergy, e2⟩ := execPubG2_next (s.published .awaitingGroup2 k1 _) rfl
  rw [State.emitGroup_eq_published, State.published_published] at e2
  refine ⟨current, power, voltage, frequency, energy, k2, hcurrent, hpower, hvoltage, hfrequency, henergy, ?_⟩
  have htick0 : exec (.tick []) s = _ := (exec_emptyTick hp).trans (by simpa only [advance, h] using e0)
  have htick1 : exec (.tick []) _ = _ := (exec_emptyTick (s := s.published .awaitingGroup1 k0 _) hp).trans e1
  have htick2 : exec (.tick []) _ = _ := (exec_emptyTick (s := s.published .awaitingGroup2 k1 _) hp).trans e2
  rw [runInOrder_cons, htick0, andThen_next, runInOrder_cons, htick1, andThen_next, runInOrder_cons, htick2]
  rfl

/-! ## The normal cycle (R223) -/

/-- The fields PUB.G0, PUB.G1 and PUB.G2 read after an accepted packet are the packet's own. -/
theorem State.accepted_encodePacket_fields (s : State) (f : Fields) :
    (s.accepted (encodePacket f)).u24 1 = f.current.toNat ∧ (s.accepted (encodePacket f)).s24 7 = f.power.toInt ∧
    (s.accepted (encodePacket f)).u24 4 = f.voltage.toNat ∧ (s.accepted (encodePacket f)).u24 10 = f.period.toNat ∧
    (s.accepted (encodePacket f)).u24 13 = f.energy.toNat := by
  have hread := packetFields_encodePacket f
  have hfield {a : Nat} (ha : a + 2 < 16) := s.accepted_field (encodePacket_valid f).1 ha
  have hcurrent := (hfield (a := 1) (by decide)).trans (congrArg Fields.current hread)
  have hpower := (hfield (a := 7) (by decide)).trans (congrArg Fields.power hread)
  have hvoltage := (hfield (a := 4) (by decide)).trans (congrArg Fields.voltage hread)
  have hperiod := (hfield (a := 10) (by decide)).trans (congrArg Fields.period hread)
  have henergy := (hfield (a := 13) (by decide)).trans (congrArg Fields.energy hread)
  simp only [State.u24, State.s24, hcurrent, hpower, hvoltage, hperiod, henergy, and_self]

/-- A tick that drains the packet of `f`, and three empty ones. -/
theorem packetThenThreeEmptyTicks_next (f : Fields) (s : State) (hwo : 17 ≤ s.wo.toNat) (hp : s.pend = false) :
    ∃ (current power voltage frequency energy : Option Publication) (k : Nat),
      CallOf s.params s.cfg.attCurrent f.current.toNat f.current.toNat s.cfg.iRef current ∧
      CallOf s.params s.cfg.attPower f.power.toInt f.power.toInt s.cfg.pRef power ∧
      CallOf s.params s.cfg.attVoltage f.voltage.toNat f.voltage.toNat s.cfg.vRef voltage ∧
      CallOf s.params s.cfg.attFrequency f.period.toNat 1000000 (.finite ((f.period.toNat : Int) : Rat)) frequency ∧
      CallOf s.params s.cfg.attEnergy f.energy.toNat f.energy.toNat s.cfg.eRef energy ∧
      runInOrder exec [.tick (encodePacket f), .tick [], .tick [], .tick []] s =
        .next ((s.accepted (encodePacket f)).published .idle k
          (groupsOf s.cfg current power voltage frequency energy)) := by
  have hdrain : exec (.tick (encodePacket f)) s = .next (s.accepted (encodePacket f)) :=
    (exec_drainingTick (List.cons_ne_nil _ _) hp).trans (feedAll_packet_accepted (encodePacket_valid f) hwo)
  have hpublish := threeEmptyTicks_next (s.accepted (encodePacket f)) (s.accepted_cur _) ((s.accepted_pend _).trans hp)
  obtain ⟨hcurrent, hpower, hvoltage, hperiod, henergy⟩ := s.accepted_encodePacket_fields f
  rw [hcurrent, hpower, hvoltage, hperiod, henergy] at hpublish
  simp only [State.accepted_params, State.accepted_cfg] at hpublish
  rw [runInOrder_cons, hdrain]
  exact hpublish

/-- Settles O42: the request and the idle tick send the command, the packet is accepted, and the three empty ticks publish
what its cells then hold. -/
theorem normalCyclePublishesThePacketsFields : Obligations.NormalCyclePublishesThePacketsFields := by
  intro f s hwo hidle
  obtain ⟨current, power, voltage, frequency, energy, k, hcurrent, hpower, hvoltage, hfrequency, henergy, hrun⟩ :=
    packetThenThreeEmptyTicks_next f { s with out := s.out ++ [.tx 0x58, .tx 0xAA], pend := false } hwo rfl
  have hcycle := runInOrder_append exec [.req, .tick []] [.tick (encodePacket f), .tick [], .tick [], .tick []] s
  rw [request_then_idleTick s hidle, andThen_next, hrun] at hcycle
  refine ⟨_, current, power, voltage, frequency, energy, hcycle, hcurrent, hpower, hvoltage, hfrequency, henergy,
    ?_, ?_, rfl, rfl, rfl⟩
  · simp [State.published, State.accepted, State.withBody, blockTxOf]
  · simp [State.published, State.accepted, State.withBody, emissionsOf, groupsOf]

end Sys2Proof.Machine
end

section
/-! PROOFS. The decode keys (R84, R85, R87, R93) against the machine: the operation a key decodes to is the one the
dispatch runs, the code of the FrameEvent each FEED presents (R88), and the operation a step runs for a strobe and for a
key that is laid out. -/

namespace Sys2Proof.Machine

/-! ## Keys and words -/

/-- Settles O43: the statement of the family EncodeDecode, constructor by constructor. -/
theorem keysOfOperationsDecodeToThem : Obligations.KeysOfOperationsDecodeToThem := by
  intro i
  cases i with
  | feedStore b => exact Laws.EncodeDecode.feedStore b
  | feedCheck b => exact Laws.EncodeDecode.feedCheck b
  | feedHdr => exact Laws.EncodeDecode.feedHdr
  | feedResync b => exact Laws.EncodeDecode.feedResync b
  | pubG0 => exact Laws.EncodeDecode.pubG0
  | pubG1 => exact Laws.EncodeDecode.pubG1
  | pubG2 => exact Laws.EncodeDecode.pubG2
  | pubIdle => exact Laws.EncodeDecode.pubIdle
  | req => exact Laws.EncodeDecode.req
  | trig => exact Laws.EncodeDecode.trig
  | tick bs => exact Laws.EncodeDecode.tick bs
  | reset => exact Laws.EncodeDecode.reset

/-- Settles O44: the decoders are evaluated on the words as written. -/
theorem writtenOutWordsDecode : Obligations.WrittenOutWordsDecode := by
  unfold Obligations.WrittenOutWordsDecode
  decide

/-! ## The dispatch runs what the key decodes to (R84 with R110, R85 with R136) -/

theorem feed_eq_exec_of_decode {b : Byte} {s : State} {i : Instr} (h : decode (.rxb s.wo b) = .ok i) :
    feed b s = exec i s := by
  rw [decode, decodeFeed_eq, Except.ok.injEq] at h
  subst h
  unfold feed
  split_ifs <;> rfl

theorem advance_eq_exec_decodeGroup {cur : BitVec 2} {s : State} (h : s.cur = Cursor.ofCode cur) :
    advance s = exec (decodeGroup cur) s := by
  unfold Cursor.ofCode at h
  unfold decodeGroup
  split_ifs at h ⊢ <;> simp only [advance, h, exec]

/-! ## Coded events (R88, R196) -/

/-- Settles O6: the five things a FEED can do, each with the code and the information of its row; the conditions of
the other rows contradict the one at hand. -/
theorem feedPresentsOneCodedEvent : Obligations.FeedPresentsOneCodedEvent := by
  intro b s
  rcases feed_cases b s with ⟨hwo, h⟩ | ⟨hwo, hb, h⟩ | ⟨hwo, hb, h⟩ | ⟨hwo, hb, h⟩ | ⟨hwo, hb, h⟩ <;>
    refine ⟨_, _, h, rfl, ?_⟩
  · have h16 : s.wo.toNat ≠ 16 := by omega
    have h17 : ¬ 17 ≤ s.wo.toNat := by omega
    simp [FrameEvent.got, FrameEvent.code, FrameEvent.isError, h16, h17]
  · simp_all [FrameEvent.got, FrameEvent.code, FrameEvent.expected, FrameEvent.isError, expectedChecksum]
  · simp_all [FrameEvent.got, FrameEvent.code, FrameEvent.expected, FrameEvent.isError, expectedChecksum]
  · have h15 : ¬ s.wo.toNat < 16 := by omega
    have h16 : s.wo.toNat ≠ 16 := by omega
    simp [FrameEvent.got, FrameEvent.code, FrameEvent.isError, h15, h16, hb]
  · have h15 : ¬ s.wo.toNat < 16 := by omega
    have h16 : s.wo.toNat ≠ 16 := by omega
    simpa [FrameEvent.got, FrameEvent.code, FrameEvent.expected, FrameEvent.isError, h15, h16]
      using fun _ h => absurd h hb

/-! ## Strobes (R87, R171, R174, R176) -/

/-- A step that meets strobes runs their operations; a tick takes the waiting bytes. -/
theorem step_strobes {s : State} {rst req tick : Bool} {rest : List Stimulus}
    (h : s.stimuli = .strobes rst req tick :: rest) :
    step s = runInOrder exec (decodeStrobes rst req tick s.rx)
      { s with stimuli := rest, rx := if tick then [] else s.rx } := by
  simp [step, fetch, h]

theorem step_reset {s : State} {rest : List Stimulus} (h : s.stimuli = .strobes true false false :: rest) :
    step s = exec .reset { s with stimuli := rest } :=
  (step_strobes h).trans (runInOrder_singleton _ _ _)

theorem step_req {s : State} {rest : List Stimulus} (h : s.stimuli = .strobes false true false :: rest) :
    step s = exec .req { s with stimuli := rest } :=
  (step_strobes h).trans (runInOrder_singleton _ _ _)

theorem step_tick {s : State} {rest : List Stimulus} (h : s.stimuli = .strobes false false true :: rest) :
    step s = exec (.tick s.rx) { s with stimuli := rest, rx := [] } :=
  (step_strobes h).trans (runInOrder_singleton _ _ _)

theorem step_noStimulus {s : State} (h : s.stimuli = []) : step s = .next s := by
  simp [step, fetch, h]

/-- Settles O47: the clause of each strobe, of none, and of no stimulus. -/
theorem stepRunsTheStrobedOperation : Obligations.StepRunsTheStrobedOperation := fun _ _ =>
  ⟨step_reset, step_req, step_tick, step_strobes, step_noStimulus⟩

/-! ## A key that is laid out (R84, R85, R87, R93) -/

/-- The state at which the operation of a key runs in the step after `placeKey`: the registers that select it are set, the
bytes are taken from the inbound stream, and the stimuli are those of `s`. -/
def placedState (s : State) : Key → State
  | .rxb wo _ => { s with wo := wo, rx := [], pend := false }
  | .grp cur => { s with cur := Cursor.ofCode cur, rx := [], pend := false }
  | .rst => s
  | .req => s
  | .tick _ => { s with rx := [] }
  | .int => { s with cur := .idle, rx := [], pend := true }

theorem step_placeKey {s : State} {k : Key} {i : Instr} (h : decode k = .ok i) :
    step (placeKey s k) = exec i (placedState s k) := by
  cases k with
  | rxb wo b =>
    calc step (placeKey s (.rxb wo b)) = exec (.tick [b]) (placedState s (.rxb wo b)) := step_tick rfl
      _ = feed b (placedState s (.rxb wo b)) := by
        rw [exec_drainingTick (List.cons_ne_nil _ _) rfl, feedAll_singleton]
      _ = exec i (placedState s (.rxb wo b)) := feed_eq_exec_of_decode h
  | grp cur =>
    cases h
    calc step (placeKey s (.grp cur)) = exec (.tick []) (placedState s (.grp cur)) := step_tick rfl
      _ = advance (placedState s (.grp cur)) := exec_emptyTick rfl
      _ = exec (decodeGroup cur) (placedState s (.grp cur)) := advance_eq_exec_decodeGroup rfl
  | rst => cases h; exact step_reset rfl
  | req => cases h; exact step_req rfl
  | tick bs => cases h; exact step_tick rfl
  | int =>
    cases h
    exact (step_tick rfl).trans (exec_emptyTick_of_idle rfl)

/-- Settles O48: the state is `placedState`, which leaves the eight components as they are. -/
theorem stepRunsThePlacedOperation : Obligations.StepRunsThePlacedOperation := by
  intro s k i h
  refine ⟨placedState s k, step_placeKey h, ?_⟩
  cases k <;> exact ⟨rfl, rfl, rfl, rfl, rfl, rfl, rfl, rfl⟩

end Sys2Proof.Machine
end

section
/-! PROOFS. The Frame Assembler's single operations (spec/40_frame_assembler.md R110 to R114, R119), the bytes met while
awaiting a header and a packet cut short (R114, R115, R226), and the bound on WO and on the cells written (R118). -/

namespace Sys2Proof.Machine

/-! ## One operation (R111 to R114) -/

theorem State.toNat_wo_add_one (s : State) (h : s.wo.toNat < 16) : (s.wo + 1).toNat = s.wo.toNat + 1 :=
  BitVec.toNat_add_of_lt (x := s.wo) (y := 1) (by simp; omega)

/-- Settles O1: the state of `execFeedStore_next`; below 16 WO does not wrap. -/
theorem feedStoreWritesItsCellAndAddsToTheChecksum : Obligations.FeedStoreWritesItsCellAndAddsToTheChecksum := by
  intro b s h
  have hlt : s.wo.toNat < 16 := by omega
  exact ⟨_, execFeedStore_next b s hlt, s.cell_writeCell_same _ b,
    fun _ ha => s.cell_writeCell_other ha.symm b, s.toNat_wo_add_one hlt, BitVec.toNat_add _ _,
    rfl, rfl, rfl, rfl, rfl, rfl, rfl⟩

/-- Settles O2: the two verdicts, each with the state its lemma gives. -/
theorem feedCheckJudgesTheChecksumByte : Obligations.FeedCheckJudgesTheChecksumByte := by
  intro b s h
  by_cases hb : b = expectedChecksum s.csum
  · have hverdict : b = s.csum ^^^ 0xFF := hb
    refine ⟨_, execFeedCheck_match b s h hb, rfl, ?_, rfl, rfl, fun _ => rfl, rfl, rfl, rfl, rfl⟩
    rw [if_pos hverdict, ← hverdict]
    exact ⟨rfl, rfl⟩
  · refine ⟨_, execFeedCheck_mismatch b s h hb, rfl, ?_, rfl, rfl, fun _ => rfl, rfl, rfl, rfl, rfl⟩
    exact (if_neg hb).mpr ⟨rfl, rfl⟩

/-- Settles O3: the state of `execFeedHdr_next`, whose one write is to cell 0. -/
theorem feedHdrStartsAPacket : Obligations.FeedHdrStartsAPacket := fun s h =>
  ⟨_, execFeedHdr_next s h, s.cell_writeCell_same 0 _, fun _ ha => s.cell_writeCell_other ha.symm _,
    rfl, rfl, rfl, rfl, rfl, rfl, rfl, rfl, rfl⟩

/-- Settles O4: FEED.RESYNC presents the event and does nothing else. -/
theorem feedResyncOnlyReportsTheByte : Obligations.FeedResyncOnlyReportsTheByte := execFeedResync_next

/-! ## The dispatch (R110, R119) -/

/-- Settles O5: the operation is the one `decodeFeed_eq` reads from the table, and FEED runs what its key decodes to. -/
theorem feedRunsTheOperationItsKeyDecodesTo : Obligations.FeedRunsTheOperationItsKeyDecodesTo := by
  intro b s
  have hdecode := decodeFeed_eq s.wo b
  refine ⟨_, rfl, hdecode, ?_, feed_eq_exec_of_decode hdecode⟩
  split_ifs with hstore hcheck hhdr
  · rfl
  · rfl
  · rfl
  · exact bne_iff_ne.2 hhdr

/-- Settles O7: the state each operation leaves, by the class of WO and the byte. -/
theorem writeOffsetMovesAsTheTableSays : Obligations.WriteOffsetMovesAsTheTableSays := by
  intro b s t h
  rcases feed_cases b s with ⟨hwo, e⟩ | ⟨hwo, -, e⟩ | ⟨hwo, -, e⟩ | ⟨hwo, hb, e⟩ | ⟨hwo, hb, e⟩ <;>
    (rw [e] at h; cases h)
  · exact ⟨fun _ => s.toNat_wo_add_one hwo, by omega, by omega, by omega⟩
  · simp [hwo]
  · simp [hwo]
  · exact ⟨by omega, by omega, fun _ _ => rfl, fun _ hne => absurd hb hne⟩
  · exact ⟨by omega, by omega, fun _ heq => absurd heq hb, fun _ _ => rfl⟩

/-! ## Bytes met while awaiting a header (R114) -/

/-- Settles O12, by induction on the bytes: a ResyncError leaves WO where it was, so the next byte is met awaiting too. -/
theorem strayBytesAreOnlyReported : Obligations.StrayBytesAreOnlyReported := by
  intro bs
  induction bs with
  | nil => simp
  | cons b rest ih =>
    intro s hwo hbs
    obtain ⟨hb, hrest⟩ := List.forall_mem_cons.1 hbs
    rw [feedAll_cons, feed_eq_resync hwo hb, execFeedResync_next b s hwo hb, andThen_next,
      ih (s.present (.resyncError b)) hwo hrest]
    simp [State.present]

/-! ## A packet cut short (R115, R226) -/

theorem toNat_foldl_add (bs : List Byte) (c : Byte) :
    (bs.foldl (· + ·) c).toNat = (c.toNat + (bs.map BitVec.toNat).sum) % 256 := by
  induction bs generalizing c with
  | nil => simpa using (Nat.mod_eq_of_lt c.isLt).symm
  | cons b rest ih => simp [ih, add_assoc]

/-- Settles O9: the state that the header and the bytes behind it leave, its cells read off the run of writes. -/
theorem partialPacketFillsOnlyTheCellsBelowWo : Obligations.PartialPacketFillsOnlyTheCellsBelowWo := by
  intro ds s hwo hlen
  have hoffset : (BitVec.ofNat 5 (ds.length + 1)).toNat = 1 + ds.length := by
    rw [BitVec.toNat_ofNat]
    omega
  have habove {a : Nat} (ha : 1 + ds.length ≤ a) :
      (s.withBody (Config.sentinel :: ds)).buf.find a = s.buf.find a :=
    s.withBody_find_above (by simp; omega)
  exact ⟨_, feedAll_header ds s hwo hlen, hoffset, toNat_foldl_add ds 0xAD, s.withBody_cell (Nat.succ_pos _),
    fun k hk => s.withBody_cell (Nat.succ_lt_succ hk),
    fun a ha => congrArg (·.getD (Config.unspecifiedCell s.resets a)) (habove ha), rfl, rfl⟩

/-! ## The bound on WO and on the cells written (R118) -/

theorem feed_wo_le {b : Byte} {s t : State} (h : feed b s = .next t) (hs : s.wo.toNat ≤ 17) : t.wo.toNat ≤ 17 := by
  obtain ⟨hstore, hcheck, hhdr, hresync⟩ := writeOffsetMovesAsTheTableSays b s t h
  rcases (by omega : s.wo.toNat ≤ 15 ∨ s.wo.toNat = 16 ∨ 17 ≤ s.wo.toNat) with hwo | hwo | hwo
  · have := hstore hwo
    omega
  · simp [hcheck hwo]
  · by_cases hb : b = 0x55
    · simp [hhdr hwo hb]
    · rwa [hresync hwo hb]

/-- From `s` to `t` no RESET ran and no cell outside the fill region was written. -/
def SameAboveFill (s t : State) : Prop :=
  t.resets = s.resets ∧ ∀ a, 16 ≤ a → t.buf.find a = s.buf.find a

theorem SameAboveFill.trans {s m t : State} (hsm : SameAboveFill s m) (hmt : SameAboveFill m t) : SameAboveFill s t :=
  ⟨hmt.1.trans hsm.1, fun a ha => (hmt.2 a ha).trans (hsm.2 a ha)⟩

theorem SameAboveFill.of_buf {s t : State} (hbuf : t.buf = s.buf) (hresets : t.resets = s.resets) :
    SameAboveFill s t :=
  ⟨hresets, fun _ _ => by rw [hbuf]⟩

theorem SameAboveFill.of_write {s t : State} {k : Nat} {v : Byte} (hk : k < 16) (hbuf : t.buf = s.buf.write k v)
    (hresets : t.resets = s.resets) : SameAboveFill s t :=
  ⟨hresets, fun _ ha => by rw [hbuf, Memory.find_write_other _ (by omega)]⟩

theorem SameAboveFill.cell {s t : State} (h : SameAboveFill s t) {a : Nat} (ha : 16 ≤ a) : t.cell a = s.cell a := by
  simp [State.cell, h.1, h.2 a ha]

/-- Of the five things a FEED can do two write a cell: the one at WO, below 16, and cell 0. -/
theorem feed_sameAboveFill {b : Byte} {s t : State} (h : feed b s = .next t) : SameAboveFill s t := by
  rcases feed_cases b s with ⟨hwo, e⟩ | ⟨-, -, e⟩ | ⟨-, -, e⟩ | ⟨-, -, e⟩ | ⟨-, -, e⟩ <;> (rw [e] at h; cases h)
  · exact .of_write hwo rfl rfl
  · exact .of_buf rfl rfl
  · exact .of_buf rfl rfl
  · exact .of_write (k := 0) (by decide) rfl rfl
  · exact .of_buf rfl rfl

/-- An ADVANCE writes neither WO nor BUF (R130). -/
theorem advance_assembler_frame {s t : State} (h : advance s = .next t) :
    t.wo = s.wo ∧ t.buf = s.buf ∧ t.resets = s.resets := by
  rcases advance_cases s with ⟨-, e⟩ | ⟨g, x, k, -, -, e⟩ <;> (rw [e] at h; cases h; simp)

/-- TRIG writes neither WO nor BUF (R161). -/
theorem execTrig_assembler_frame {s t : State} (h : execTrig s = .next t) :
    t.wo = s.wo ∧ t.buf = s.buf ∧ t.resets = s.resets := by
  rcases execTrig_cases s with ⟨-, e⟩ | ⟨-, e⟩ <;> (rw [e] at h; cases h; exact ⟨rfl, rfl, rfl⟩)

theorem exec_wo_le {i : Instr} {s t : State} (h : exec i s = .next t) (hs : s.wo.toNat ≤ 17) : t.wo.toNat ≤ 17 := by
  refine exec_keeps (P := fun u => u.wo.toNat ≤ 17) (fun _ _ _ => feed_wo_le) ?_ ?_ (fun _ hp => hp) ?_ h hs
  · intro u v hadvance hp
    rwa [(advance_assembler_frame hadvance).1]
  · intro u v htrig hp
    rwa [(execTrig_assembler_frame htrig).1]
  · rintro - u v hreset -
    cases hreset
    exact le_rfl

theorem exec_sameAboveFill {i : Instr} {s t : State} (hi : i ≠ .reset) (h : exec i s = .next t) :
    SameAboveFill s t := by
  refine exec_keeps (P := SameAboveFill s) (fun _ _ _ hfeed hp => hp.trans (feed_sameAboveFill hfeed)) ?_ ?_
    (fun _ hp => hp) (fun hreset => absurd hreset hi) h (.of_buf rfl rfl)
  · intro u v hadvance hp
    obtain ⟨-, hbuf, hresets⟩ := advance_assembler_frame hadvance
    exact hp.trans (.of_buf hbuf hresets)
  · intro u v htrig hp
    obtain ⟨-, hbuf, hresets⟩ := execTrig_assembler_frame htrig
    exact hp.trans (.of_buf hbuf hresets)

/-- Settles O8: the bound on WO and the cells above the fill region are each kept by every operation the dispatch runs. -/
theorem noOperationWritesPastTheFillRegion : Obligations.NoOperationWritesPastTheFillRegion := fun _ _ _ h =>
  ⟨exec_wo_le h, fun hi a ha =>
    have hsame := exec_sameAboveFill hi h
    ⟨hsame.2 a ha, hsame.cell ha⟩⟩

end Sys2Proof.Machine
end

section
/-! PROOFS. The recommended FLOAT_FMT and ROUND (spec/92_eei_decisions.md D14), and SCALE over them
(spec/41_field_publisher.md R134): the exponent of a quotient, its rounded significand, the integers a binary format
holds, and the value SCALE answers for each kind of divisor. -/

namespace Sys2Proof.Machine

/-! ## The exponent of a quotient (D14) -/

/-- A power of two, split as the model writes it into a natural power above and one below the fraction bar. -/
theorem two_zpow_eq_div (e : Int) : (2 : Rat) ^ e = 2 ^ e.toNat / 2 ^ (-e).toNat := by
  conv_lhs => rw [← Int.toNat_sub_toNat_neg e, zpow_sub₀ two_ne_zero]
  simp only [zpow_natCast]

/-- The comparison `floorLog2` makes in the natural numbers is the one of the quotient with the power of two. -/
theorem mul_two_pow_le_iff {a b : Nat} (hb : 0 < b) (e : Int) :
    b * 2 ^ e.toNat ≤ a * 2 ^ (-e).toNat ↔ (2 : Rat) ^ e ≤ (a : Rat) / b := by
  have hbq : (0 : Rat) < b := Nat.cast_pos.2 hb
  rw [two_zpow_eq_div, div_le_div_iff₀ (by positivity) hbq, mul_comm]
  exact_mod_cast Iff.rfl

/-- The difference of the two logarithms is at most one too large, and never too small. -/
theorem log2_sub_log2_brackets {a b : Nat} (ha : 0 < a) (hb : 0 < b) :
    (2 : Rat) ^ ((a.log2 : Int) - b.log2 - 1) ≤ (a : Rat) / b ∧
      (a : Rat) / b < (2 : Rat) ^ ((a.log2 : Int) - b.log2 + 1) := by
  have hbq : (0 : Rat) < b := Nat.cast_pos.2 hb
  have hale : (2 : Rat) ^ a.log2 ≤ a := by exact_mod_cast Nat.log2_self_le ha.ne'
  have halt : (a : Rat) < 2 ^ (a.log2 + 1) := by exact_mod_cast Nat.lt_log2_self
  have hble : (2 : Rat) ^ b.log2 ≤ b := by exact_mod_cast Nat.log2_self_le hb.ne'
  have hblt : (b : Rat) < 2 ^ (b.log2 + 1) := by exact_mod_cast Nat.lt_log2_self
  constructor
  · calc (2 : Rat) ^ ((a.log2 : Int) - b.log2 - 1) = 2 ^ a.log2 / 2 ^ (b.log2 + 1) := by
          rw [sub_sub, zpow_sub₀ two_ne_zero]; norm_cast
      _ ≤ a / b := div_le_div₀ (Nat.cast_nonneg a) hale hbq hblt.le
  · calc (a : Rat) / b < 2 ^ (a.log2 + 1) / 2 ^ b.log2 := div_lt_div₀ halt hble (by positivity) (by positivity)
      _ = (2 : Rat) ^ ((a.log2 : Int) - b.log2 + 1) := by
          rw [sub_add_eq_add_sub, zpow_sub₀ two_ne_zero]; norm_cast

/-- Settles O24: the comparison tells whether the difference of the logarithms is already the exponent or one too large. -/
theorem binaryExponentBracketsTheQuotient : Obligations.BinaryExponentBracketsTheQuotient := by
  intro a b ha hb
  obtain ⟨hlow, hhigh⟩ := log2_sub_log2_brackets ha hb
  have hcompare := mul_two_pow_le_iff (a := a) hb (a.log2 - b.log2)
  simp only [floorLog2]
  split_ifs with h
  · exact ⟨hcompare.1 h, hhigh⟩
  · exact ⟨hlow, by simpa using lt_of_not_ge (mt hcompare.2 h)⟩

/-! ## The rounded significand (D14) -/

/-- Rounding goes down where the remainder is at most half the divisor and up where it is at least half; at a half it goes
to the even neighbour. -/
theorem nearestEvenNat_cases (n d : Nat) :
    (nearestEvenNat n d = n / d ∧ 2 * (n % d) ≤ d ∧ (2 * (n % d) = d → n / d % 2 = 0)) ∨
    (nearestEvenNat n d = n / d + 1 ∧ d ≤ 2 * (n % d) ∧ (2 * (n % d) = d → (n / d + 1) % 2 = 0)) := by
  unfold nearestEvenNat
  split_ifs with hdown hup heven
  · exact .inl ⟨rfl, hdown.le, fun htie => absurd htie hdown.ne⟩
  · exact .inr ⟨rfl, hup.le, fun htie => absurd htie hup.ne'⟩
  · exact .inl ⟨rfl, not_lt.1 hup, fun _ => heven⟩
  · exact .inr ⟨rfl, not_lt.1 hdown, fun _ => by omega⟩

/-- Settles O25: down the error is the remainder, up it is what the remainder lacks of the divisor. -/
theorem significandRoundsToNearestEven : Obligations.SignificandRoundsToNearestEven := by
  intro n d hd
  have hdivision : n / d * d + n % d = n := Nat.div_add_mod' n d
  have hrem : n % d < d := Nat.mod_lt n hd
  rcases nearestEvenNat_cases n d with ⟨e, hhalf, htie⟩ | ⟨e, hhalf, htie⟩ <;> rw [e]
  · exact ⟨by omega, by omega, htie⟩
  · rw [Nat.add_one_mul (n / d) d]
    exact ⟨by omega, by omega, htie⟩

/-! ## Integers a binary format holds (R134, G3) -/

/-- The exponent of a positive integer with at most `p` bits is below `p`. -/
theorem floorLog2_one_lt {a p : Nat} (ha : 0 < a) (h : a < 2 ^ p) : floorLog2 a 1 < p := by
  obtain ⟨hle, -⟩ := binaryExponentBracketsTheQuotient a 1 ha one_pos
  have hlt : (a : Rat) / (1 : Nat) < (2 : Rat) ^ (p : Int) := by
    rw [Nat.cast_one, div_one, zpow_natCast]
    exact_mod_cast h
  exact (zpow_lt_zpow_iff_right₀ one_lt_two).1 (hle.trans_lt hlt)

/-- An integer of at most `p` bits is a multiple of its quantum, which is at most 1. -/
theorem represents_binary_intCast {p : Nat} {eMin eMax : Int} (hmin : eMin ≤ 0) (hmax : 0 ≤ eMax) {z : Int}
    (h : z.natAbs < 2 ^ p) : represents (.binary p eMin eMax) (z : Rat) = true := by
  by_cases hz : z = 0
  · simp [hz, represents]
  · have hexp := floorLog2_one_lt (Int.natAbs_pos.2 hz) h
    have hquantum : quantum p eMin z.natAbs 1 ≤ 0 := max_le (by omega) hmin
    have hshift : (quantum p eMin z.natAbs 1).toNat = 0 := Int.toNat_of_nonpos hquantum
    simp [represents, hz, scaledBy, hshift, Nat.mod_one, hquantum.trans hmax]

/-- Settles O26: both readings of 24 bits are integers below `2^24` in absolute value. -/
theorem rawFieldsAreExactInBinary32 : Obligations.RawFieldsAreExactInBinary32 := by
  intro v
  have hunsigned : v.toNat < 2 ^ 24 := v.isLt
  have hlow := v.le_toInt
  have hhigh := v.toInt_lt
  exact ⟨represents_binary_intCast (by decide) (by decide) hunsigned,
    represents_binary_intCast (by decide) (by decide) (by omega)⟩

/-! ## SCALE (R134) -/

/-- SCALE by a finite divisor other than zero draws nothing. -/
theorem State.scale_finite (s : State) (n : Int) {q : Rat} (hq : q ≠ 0) :
    s.scale n (.finite q) = (roundTo s.params (n / q), s) := by
  simp [State.scale, hq]

/-- SCALE by any other divisor is a draw. -/
theorem State.scale_open (s : State) (n : Int) {d : FloatVal} (hd : ∀ q : Rat, d = .finite q → q = 0) :
    s.scale n d = (Config.draw s.draws, { s with draws := s.draws + 1 }) := by
  cases d with
  | finite q => simp [State.scale, hd q rfl]
  | infinity negative => rfl
  | nan => rfl

/-- ROUND is the identity on the values the format holds. -/
theorem roundTo_of_represents {p : Params} {q : Rat} (h : represents p.format q = true) : roundTo p q = .finite q :=
  if_pos h

/-- Settles O20: the two kinds of divisor, and ROUND on a quotient the format holds. -/
theorem scaleRoundsTheExactQuotient : Obligations.ScaleRoundsTheExactQuotient := fun s n =>
  ⟨fun q hq => ⟨s.scale_finite n hq, fun h => by rw [s.scale_finite n hq, roundTo_of_represents h]⟩,
    fun _ => s.scale_open n⟩

end Sys2Proof.Machine
end

section
/-! PROOFS. The Field Publisher's single operations (spec/41_field_publisher.md): the field accessors (R131, R132), the four
PUB operations and the dispatch over them (R136 to R140), and where CUR goes at every operation (R142). -/

namespace Sys2Proof.Machine

/-! ## Field accessors (R131, R132) -/

theorem toNat_le24 (lo mid hi : Byte) : (le24 lo mid hi).toNat = lo.toNat + 256 * mid.toNat + 65536 * hi.toNat := by
  have houter : (le24 lo mid hi).toNat = (hi ++ mid).toNat <<< 8 ||| lo.toNat := BitVec.toNat_append _ _
  rw [houter, BitVec.toNat_append, ← Nat.shiftLeft_add_eq_or_of_lt mid.isLt, ← Nat.shiftLeft_add_eq_or_of_lt lo.isLt]
  simp only [Nat.shiftLeft_eq]
  omega

/-- The sign of a field is bit 7 of its last byte. -/
theorem msb_le24 (lo mid hi : Byte) : (le24 lo mid hi).msb = hi.getLsbD 7 := by
  have houter : (le24 lo mid hi).msb = (hi ++ mid).msb := BitVec.msb_append
  have hinner : (hi ++ mid).msb = hi.msb := BitVec.msb_append
  rw [houter, hinner, BitVec.msb_eq_getLsbD_last]

theorem State.u24_eq_unsignedField (s : State) (a : Nat) : s.u24 a = unsignedField s a := by
  simp [State.u24, State.field, toNat_le24, unsignedField]

theorem State.s24_eq_ite (s : State) (a : Nat) :
    s.s24 a = if (s.cell (a + 2)).getLsbD 7 then s.u24 a - 2 ^ 24 else s.u24 a := by
  rw [State.s24, BitVec.toInt_eq_msb_cond, State.field, msb_le24]
  rfl

theorem State.s24_eq_signedField (s : State) (a : Nat) : s.s24 a = signedField s a := by
  rw [s.s24_eq_ite, s.u24_eq_unsignedField]
  rfl

/-- Settles O18: the three bytes of the pattern, which has 24 bits. -/
theorem unsignedFieldIsLittleEndian : Obligations.UnsignedFieldIsLittleEndian := fun s a =>
  ⟨s.u24_eq_unsignedField a, Int.natCast_nonneg _, Int.ofNat_le.2 (Nat.le_of_lt_succ (s.field a).isLt)⟩

/-- Settles O19: the pattern's sign is bit 7 of its last byte, and it has 24 bits. -/
theorem signedFieldIsSignExtended : Obligations.SignedFieldIsSignExtended := fun s a =>
  ⟨s.s24_eq_ite a, (s.field a).le_toInt, Int.le_of_lt_add_one (s.field a).toInt_lt⟩

/-! ## The PUB operations (R137 to R140) -/

/-- What a PUB operation leaves in each register and in the surroundings, given the state it leaves. -/
theorem State.emitGroup_effect (s : State) (c : Cursor) (k : Nat) (g : Bool) (e : Emission) :
    let t := ({ s with cur := c, draws := k }).emitGroup g e
    t.out = (if g then s.out ++ [.emission e] else s.out) ∧ t.cur = c ∧ t.wo = s.wo ∧ t.csum = s.csum ∧
      t.pend = s.pend ∧ SameBuffer s t ∧ SameSurroundings s t := by
  cases g <;> exact ⟨rfl, rfl, rfl, rfl, rfl, fun _ => rfl, rfl, rfl, rfl, rfl⟩

/-- Settles O14: the two calls of `execPubG0_next`, on the fields as the rules write them. -/
theorem pubG0PublishesCurrentAndPower : Obligations.PubG0PublishesCurrentAndPower := by
  intro s h
  obtain ⟨current, power, k, hcurrent, hpower, hnext⟩ := execPubG0_next s h
  rw [s.u24_eq_unsignedField] at hcurrent
  rw [s.s24_eq_signedField] at hpower
  exact ⟨_, current, power, hnext, hcurrent, hpower, s.emitGroup_effect _ k _ _⟩

/-- Settles O15: the two calls of `execPubG1_next`, on the fields as the rules write them. -/
theorem pubG1PublishesVoltageAndFrequency : Obligations.PubG1PublishesVoltageAndFrequency := by
  intro s h
  obtain ⟨voltage, frequency, k, hvoltage, hfrequency, hnext⟩ := execPubG1_next s h
  rw [s.u24_eq_unsignedField] at hvoltage hfrequency
  exact ⟨_, voltage, frequency, hnext, hvoltage, hfrequency, s.emitGroup_effect _ k _ _⟩

/-- Settles O16: the call of `execPubG2_next`, on the field as the rules write it. -/
theorem pubG2PublishesEnergy : Obligations.PubG2PublishesEnergy := by
  intro s h
  obtain ⟨energy, k, henergy, hnext⟩ := execPubG2_next s h
  rw [s.u24_eq_unsignedField] at henergy
  exact ⟨_, energy, hnext, henergy, s.emitGroup_effect _ k _ _⟩

/-- Settles O17: the state of `execPubIdle_next`. -/
theorem pubIdleDoesNothing : Obligations.PubIdleDoesNothing := execPubIdle_next

/-! ## The dispatch (R85, R136) -/

theorem Cursor.ofCode_code (c : Cursor) : Cursor.ofCode c.code = c := by
  cases c <;> rfl

/-- Settles O13: the operation is the one the key of CUR's code decodes to. -/
theorem advanceRunsTheOperationTheCursorDecodesTo : Obligations.AdvanceRunsTheOperationTheCursorDecodesTo := fun s =>
  ⟨decodeGroup s.cur.code, decodeGroup_code s.cur, rfl, advance_eq_exec_decodeGroup (Cursor.ofCode_code s.cur).symm⟩

/-! ## Where CUR goes (R142) -/

theorem execFeedStore_cur {b : Byte} {s t : State} (h : execFeedStore b s = .next t) : t.cur = s.cur := by
  rw [execFeedStore_next b s (execFeedStore_selected h)] at h
  cases h
  rfl

theorem execFeedCheck_cur {b : Byte} {s t : State} (h : execFeedCheck b s = .next t) :
    t.cur = if b = s.csum ^^^ 0xFF then .awaitingGroup0 else s.cur := by
  have hwo := execFeedCheck_selected h
  split_ifs with hb
  · rw [execFeedCheck_match b s hwo hb] at h
    cases h
    rfl
  · rw [execFeedCheck_mismatch b s hwo hb] at h
    cases h
    rfl

theorem execFeedHdr_cur {s t : State} (h : execFeedHdr s = .next t) :
    t.cur = if s.params.hdrIdlesCursor then .idle else s.cur := by
  rw [execFeedHdr_next s (execFeedHdr_selected h)] at h
  cases h
  rfl

theorem execFeedResync_cur {b : Byte} {s t : State} (h : execFeedResync b s = .next t) : t.cur = s.cur := by
  obtain ⟨hwo, hb⟩ := execFeedResync_selected h
  rw [execFeedResync_next b s hwo hb] at h
  cases h
  rfl

/-- An ADVANCE moves CUR on by one, and leaves idle idle. -/
theorem advance_cur {s t : State} (h : advance s = .next t) : t.cur = s.cur.after := by
  rcases advance_cases s with ⟨hidle, e⟩ | ⟨g, x, k, -, -, e⟩ <;> (rw [e] at h; cases h)
  · rw [hidle]
    rfl
  · exact State.emitGroup_cur _ g x

theorem execTrig_cur {s t : State} (h : execTrig s = .next t) : t.cur = s.cur := by
  rcases execTrig_cases s with ⟨-, e⟩ | ⟨-, e⟩ <;> (rw [e] at h; cases h; rfl)

/-- An operation selected by a value of CUR is the ADVANCE there, so it moves CUR as `Cursor.after` says. -/
theorem exec_decodeGroup_cur {c : Cursor} {s t : State} (hc : s.cur = c) (h : exec (decodeGroup c.code) s = .next t) :
    s.cur = c ∧ t.cur = c.after := by
  subst hc
  exact ⟨rfl, advance_cur ((advance_eq_exec_decodeGroup (Cursor.ofCode_code _).symm).trans h)⟩

/-- Settles O23, operation by operation; the PUB operations are the ADVANCE at the value of CUR that selects them. -/
theorem cursorMovesAsTheTableSays : Obligations.CursorMovesAsTheTableSays := by
  intro i s t h
  cases i with
  | feedStore b => exact execFeedStore_cur h
  | feedCheck b => exact execFeedCheck_cur h
  | feedHdr => exact execFeedHdr_cur h
  | feedResync b => exact execFeedResync_cur h
  | pubG0 => exact exec_decodeGroup_cur (execPubG0_selected h) h
  | pubG1 => exact exec_decodeGroup_cur (execPubG1_selected h) h
  | pubG2 => exact exec_decodeGroup_cur (execPubG2_selected h) h
  | pubIdle => exact exec_decodeGroup_cur (execPubIdle_selected h) h
  | req => cases h; rfl
  | trig => exact execTrig_cur h
  | tick bs => trivial
  | reset => cases h; rfl

end Sys2Proof.Machine
end

section
/-! PROOFS. What a TICK publishes (spec/41_field_publisher.md R130, R141; spec/43_poll_tick.md R170): the outputs that a
drain, an ADVANCE and TRIG add, and the groups that three empty ticks emit. -/

namespace Sys2Proof.Machine

/-! ## Views of one kind of output -/

@[simp] theorem eventsOf_map_emission (es : List Emission) : eventsOf (es.map Output.emission) = [] := by
  induction es with
  | nil => rfl
  | cons e rest ih => simpa [eventsOf] using ih

@[simp] theorem eventsOf_map_tx (bs : List Byte) : eventsOf (bs.map Output.tx) = [] := by
  induction bs with
  | nil => rfl
  | cons b rest ih => simpa [eventsOf] using ih

@[simp] theorem emissionsOf_map_event (es : List FrameEvent) : emissionsOf (es.map Output.event) = [] := by
  induction es with
  | nil => rfl
  | cons e rest ih => simpa [emissionsOf] using ih

@[simp] theorem emissionsOf_map_tx (bs : List Byte) : emissionsOf (bs.map Output.tx) = [] := by
  induction bs with
  | nil => rfl
  | cons b rest ih => simpa [emissionsOf] using ih

/-! ## What each part of a tick outputs (R130, R161) -/

/-- A drain outputs FrameEvents and nothing else. -/
theorem feedAll_out {bs : List Byte} {s t : State} (h : feedAll bs s = .next t) :
    ∃ es : List FrameEvent, t.out = s.out ++ es.map Output.event := by
  refine feedAll_keeps (P := fun u => ∃ es : List FrameEvent, u.out = s.out ++ es.map Output.event) ?_ bs s t h
    ⟨[], by simp⟩
  rintro b u v hfeed ⟨es, hes⟩
  obtain ⟨e, -, he⟩ := feed_out hfeed
  exact ⟨es ++ [e], by simp [he, hes]⟩

/-- TRIG writes on TX and outputs nothing else. -/
theorem execTrig_out {s t : State} (h : execTrig s = .next t) : ∃ bs : List Byte, t.out = s.out ++ bs.map Output.tx := by
  rcases execTrig_cases s with ⟨-, e⟩ | ⟨-, e⟩ <;> (rw [e] at h; cases h)
  · exact ⟨Config.commandFrame, rfl⟩
  · exact ⟨[], by simp⟩

theorem execTrig_cfg {s t : State} (h : execTrig s = .next t) : t.cfg = s.cfg := by
  rcases execTrig_cases s with ⟨-, e⟩ | ⟨-, e⟩ <;> (rw [e] at h; cases h; rfl)

/-- Whether a channel of the group at a value of CUR is attached. -/
def groupAttached (c : HostConfig) : Cursor → Bool
  | .awaitingGroup0 => c.attCurrent || c.attPower
  | .awaitingGroup1 => c.attVoltage || c.attFrequency
  | .awaitingGroup2 => c.attEnergy
  | .idle => false

/-- The group that an ADVANCE at a value of CUR emits, if any. -/
def groupDue (c : HostConfig) (cur : Cursor) : List (BitVec 2) :=
  if groupAttached c cur then [cur.code] else []

theorem length_groupDue_le (c : HostConfig) (cur : Cursor) : (groupDue c cur).length ≤ 1 := by
  unfold groupDue
  split_ifs <;> simp

theorem State.published_self (s : State) : s.published s.cur s.draws [] = s := by
  simp [State.published]

/-- An ADVANCE emits the group that is due, moves CUR on, and does nothing else but count free values. -/
theorem advance_eq_published (s : State) :
    ∃ (k : Nat) (es : List Emission),
      advance s = .next (s.published s.cur.after k es) ∧ es.map Emission.groupId = groupDue s.cfg s.cur := by
  cases h : s.cur with
  | awaitingGroup0 =>
    obtain ⟨current, power, k, -, -, e⟩ := execPubG0_next s h
    exact ⟨k, _, by simpa only [advance, h, State.emitGroup_eq_published, Cursor.after] using e, apply_ite _ _ _ _⟩
  | awaitingGroup1 =>
    obtain ⟨voltage, frequency, k, -, -, e⟩ := execPubG1_next s h
    exact ⟨k, _, by simpa only [advance, h, State.emitGroup_eq_published, Cursor.after] using e, apply_ite _ _ _ _⟩
  | awaitingGroup2 =>
    obtain ⟨energy, k, -, e⟩ := execPubG2_next s h
    exact ⟨k, _, by simpa only [advance, h, State.emitGroup_eq_published, Cursor.after] using e, apply_ite _ _ _ _⟩
  | idle =>
    have hself : s.published .idle s.draws [] = s := h ▸ s.published_self
    exact ⟨s.draws, [], by simp only [advance, h, execPubIdle_next s h, Cursor.after, hself], rfl⟩

/-! ## A tick -/

/-- Settles O38: a drain adds FrameEvents, an ADVANCE at most the group that is due, TRIG neither. -/
theorem tickNeverDrainsAndPublishes : Obligations.TickNeverDrainsAndPublishes := by
  intro bs s t h
  have htick : andThen (if bs = [] then advance s else feedAll bs s) execTrig = .next t :=
    (execTick_eq bs s).symm.trans h
  obtain ⟨m, hm, htrig⟩ := andThen_eq_next htick
  obtain ⟨command, hcommand⟩ := execTrig_out htrig
  split_ifs at hm with hbs
  · obtain ⟨k, es, hadvance, hdue⟩ := advance_eq_published s
    cases hadvance.symm.trans hm
    have hlen : es.length ≤ 1 := by
      rw [← es.length_map Emission.groupId, hdue]
      exact length_groupDue_le _ _
    exact ⟨es.map Output.emission ++ command.map Output.tx, by simp [hcommand, State.published], .inl (by simp),
      by simpa using hlen, fun hne => absurd hbs hne⟩
  · obtain ⟨es, hes⟩ := feedAll_out hm
    exact ⟨es.map Output.event ++ command.map Output.tx, by simp [hcommand, hes], .inr (by simp), by simp, by simp⟩

/-- An empty tick emits the group that is due and moves CUR on, whether or not it also sends the command. -/
theorem exec_emptyTick_publishes (s : State) :
    ∃ t, exec (.tick []) s = .next t ∧ t.cur = s.cur.after ∧ t.cfg = s.cfg ∧
      (emissionsOf t.out).map Emission.groupId =
        (emissionsOf s.out).map Emission.groupId ++ groupDue s.cfg s.cur := by
  obtain ⟨k, es, hadvance, hdue⟩ := advance_eq_published s
  obtain ⟨t, htrig⟩ := execTrig_completes (s.published s.cur.after k es)
  have htick : exec (.tick []) s = .next t := by
    rw [exec, execTick_eq, if_pos rfl, hadvance, andThen_next, htrig]
  obtain ⟨command, hcommand⟩ := execTrig_out htrig
  refine ⟨t, htick, execTrig_cur htrig, (execTrig_cfg htrig).trans rfl, ?_⟩
  simp [hcommand, State.published, hdue]

/-- Settles O22: the ticks find CUR at 0, 1 and 2, and the last leaves it idle. -/
theorem threeEmptyTicksPublishTheThreeGroups : Obligations.ThreeEmptyTicksPublishTheThreeGroups := by
  intro s h
  obtain ⟨t₁, htick₁, hcur₁, hcfg₁, hemitted₁⟩ := exec_emptyTick_publishes s
  obtain ⟨t₂, htick₂, hcur₂, hcfg₂, hemitted₂⟩ := exec_emptyTick_publishes t₁
  obtain ⟨t₃, htick₃, hcur₃, -, hemitted₃⟩ := exec_emptyTick_publishes t₂
  rw [h] at hcur₁ hemitted₁
  rw [hcur₁] at hcur₂ hemitted₂
  rw [hcur₂] at hcur₃ hemitted₃
  refine ⟨t₃, by simp only [runInOrder_cons, htick₁, htick₂, htick₃, andThen_next, runInOrder_nil], ?_, hcur₃, ?_⟩
  · rw [hemitted₃, hemitted₂, hemitted₁, hcfg₂, hcfg₁]
    simp only [List.append_assoc]
    rfl
  · rw [advance, hcur₃]
    exact execPubIdle_next t₃ hcur₃

end Sys2Proof.Machine
end

section
/-! PROOFS. The Read-Request Trigger (spec/42_request_trigger.md): what REQ and TRIG do (R160, R161), any number of requests
taken up by one TICK (R160 corner (a), R234), and the place of the command among a TICK's outputs (R161, R170). -/

namespace Sys2Proof.Machine

/-! ## REQ and TRIG -/

/-- Settles O27: REQ is one assignment, under no condition. -/
theorem reqOnlySetsThePendingFlag : Obligations.ReqOnlySetsThePendingFlag := fun _ => rfl

/-- Settles O28: the two cases of TRIG are those of PEND. -/
theorem trigSendsTheCommandOnce : Obligations.TrigSendsTheCommandOnce := by
  intro s
  rcases execTrig_cases s with ⟨hp, htrig⟩ | ⟨hp, htrig⟩
  · rw [if_pos hp]
    exact htrig
  · rw [if_neg (Bool.eq_false_iff.mp hp)]
    exact htrig

/-! ## Requests with no TICK between them (R160 corner (a), R234) -/

/-- Further REQs right after a first one change nothing, whatever comes after them. -/
theorem runInOrder_replicate_req (k : Nat) (is : List Instr) (s : State) :
    runInOrder exec (List.replicate (k + 1) .req ++ is) s = runInOrder exec (.req :: is) s := by
  induction k generalizing s with
  | zero => rfl
  | succ k ih =>
    rw [List.replicate_succ, List.cons_append, runInOrder_cons, reqOnlySetsThePendingFlag, andThen_next, ih]
    rfl

/-- A tick with nothing to drain, to publish or to send does nothing. -/
theorem exec_emptyTick_of_quiet {s : State} (hcur : s.cur = .idle) (hp : s.pend = false) :
    exec (.tick []) s = .next s := by
  rw [exec_emptyTick hp, advance, hcur]
  exact execPubIdle_next s hcur

/-- Settles O39: the REQs are as good as one, the first tick sends its command, and the second finds nothing to do. -/
theorem requestsCoalesce : Obligations.RequestsCoalesce := by
  intro k s h
  have hsplit : [.req, .tick [], .tick []] = [.req, .tick []] ++ [Instr.tick []] := rfl
  rw [runInOrder_replicate_req, hsplit, runInOrder_append, request_then_idleTick s h, andThen_next,
    runInOrder_singleton]
  exact exec_emptyTick_of_quiet h rfl

/-! ## The command of a TICK (R161, R170) -/

@[simp] theorem blockTxOf_map_event (es : List FrameEvent) : blockTxOf (es.map Output.event) = [] := by
  induction es with
  | nil => rfl
  | cons e rest ih => simpa [blockTxOf] using ih

/-- TRIG leaves no request pending and outputs the command of the one it found, if any. -/
theorem execTrig_pend_out {s t : State} (h : execTrig s = .next t) :
    t.pend = false ∧ t.out = s.out ++ (if s.pend then [.tx 0x58, .tx 0xAA] else []) := by
  rcases execTrig_cases s with ⟨hp, e⟩ | ⟨hp, e⟩ <;> (rw [e] at h; cases h)
  · exact ⟨rfl, by simp [hp]⟩
  · exact ⟨hp, by simp [hp]⟩

/-- What a TICK does before TRIG, drain or ADVANCE, sends nothing on TX. -/
theorem tickBody_sends_nothing {bs : List Byte} {s m : State}
    (h : (if bs = [] then advance s else feedAll bs s) = .next m) :
    ∃ pre, blockTxOf pre = [] ∧ m.out = s.out ++ pre := by
  split_ifs at h
  · obtain ⟨k, es, hadvance, -⟩ := advance_eq_published s
    cases hadvance.symm.trans h
    exact ⟨es.map Output.emission, blockTxOf_map_emission es, rfl⟩
  · obtain ⟨es, hes⟩ := feedAll_out h
    exact ⟨es.map Output.event, blockTxOf_map_event es, hes⟩

/-- What a TICK does before TRIG leaves the request for TRIG to find. -/
theorem tickBody_pend {bs : List Byte} {s m : State}
    (h : (if bs = [] then advance s else feedAll bs s) = .next m) : m.pend = s.pend := by
  split_ifs at h
  · exact advance_pend h
  · exact feedAll_pend h

/-- Settles O36: neither a drain nor an ADVANCE sends on TX or touches PEND, and TRIG comes after them. -/
theorem commandIsTheTicksLastOutput : Obligations.CommandIsTheTicksLastOutput := by
  intro bs s t h
  obtain ⟨m, hbody, htrig⟩ := andThen_eq_next ((execTick_eq bs s).symm.trans h)
  obtain ⟨pre, hpre, hout⟩ := tickBody_sends_nothing hbody
  obtain ⟨hpend, hcommand⟩ := execTrig_pend_out htrig
  refine ⟨hpend, pre, hpre, ?_⟩
  rw [hcommand, hout, tickBody_pend hbody]

end Sys2Proof.Machine
end

section
/-! PROOFS. The poll tick (spec/43_poll_tick.md): what a TICK composes and presents (R171), how a stream is divided among
ticks (R116), the loop over the availability query that R170 writes, and strobes asserted together or too early (R176). -/

namespace Sys2Proof.Machine

/-! ## A tick is the operations its keys select, then TRIG (R84, R85, R171) -/

/-- A drain runs, byte by byte, the operation that the byte's key decodes to. -/
theorem feedChain_of_feedAll {bs : List Byte} {s t : State} (h : feedAll bs s = .next t) : FeedChain bs s t := by
  induction bs generalizing s with
  | nil =>
    cases h
    rfl
  | cons b rest ih =>
    obtain ⟨m, hfeed, hrest⟩ := andThen_eq_next h
    obtain ⟨i, -, hdecode, -, hrun⟩ := feedRunsTheOperationItsKeyDecodesTo b s
    exact ⟨i, m, hdecode, hrun.symm.trans hfeed, ih hrest⟩

/-- Settles O29: the ADVANCE or the drain completes, then TRIG does, and each is what the keys decode to. -/
theorem tickIsDrainOrAdvanceThenTrig : Obligations.TickIsDrainOrAdvanceThenTrig := by
  intro bs s
  obtain ⟨t, htick⟩ := execTick_completes bs s
  obtain ⟨u, hbody, htrig⟩ := andThen_eq_next ((execTick_eq bs s).symm.trans htick)
  refine ⟨u, t, ?_, htrig, htick⟩
  split_ifs at hbody ⊢
  · obtain ⟨i, -, hdecode, hrun⟩ := advanceRunsTheOperationTheCursorDecodesTo s
    exact ⟨i, hdecode, hrun.symm.trans hbody⟩
  · exact feedChain_of_feedAll hbody

/-! ## The FrameEvents of a tick (R171, R196) -/

/-- A drain outputs one FrameEvent for each byte, in byte order, and nothing else. -/
theorem feedAll_presents {bs : List Byte} {s t : State} (h : feedAll bs s = .next t) :
    ∃ es : List FrameEvent, t.out = s.out ++ es.map Output.event ∧ es.map FrameEvent.got = bs := by
  induction bs generalizing s with
  | nil =>
    cases h
    exact ⟨[], by simp, rfl⟩
  | cons b rest ih =>
    obtain ⟨m, hfeed, hrest⟩ := andThen_eq_next h
    obtain ⟨e, hgot, he⟩ := feed_out hfeed
    obtain ⟨es, hes, hgots⟩ := ih hrest
    exact ⟨e :: es, by simp [hes, he], by simp [hgot, hgots]⟩

@[simp] theorem eventsOf_map_event (es : List FrameEvent) : eventsOf (es.map Output.event) = es := by
  induction es with
  | nil => rfl
  | cons e rest ih => simpa [eventsOf] using ih

/-- Settles O37: an ADVANCE presents no FrameEvent, a drain one for each byte, TRIG none. -/
theorem tickPresentsOneEventForEachByte : Obligations.TickPresentsOneEventForEachByte := by
  intro bs s t h
  obtain ⟨m, hbody, htrig⟩ := andThen_eq_next ((execTick_eq bs s).symm.trans h)
  obtain ⟨command, hcommand⟩ := execTrig_out htrig
  split_ifs at hbody with hbs
  · obtain ⟨k, es, hadvance, -⟩ := advance_eq_published s
    cases hadvance.symm.trans hbody
    exact ⟨[], by simp [hcommand, State.published], hbs.symm⟩
  · obtain ⟨es, hes, hgots⟩ := feedAll_presents hbody
    exact ⟨es, by simp [hcommand, hes], hgots⟩

/-! ## A stream divided among ticks (R116) -/

/-- Ticks with input and no request pending drain their bytes one after the other. -/
theorem runInOrder_drainingTicks {bss : List (List Byte)} {s : State} (hp : s.pend = false)
    (hbss : ∀ bs ∈ bss, bs ≠ []) : runInOrder exec (bss.map Instr.tick) s = feedAll bss.flatten s := by
  induction bss generalizing s with
  | nil => rfl
  | cons bs rest ih =>
    obtain ⟨hbs, hrest⟩ := List.forall_mem_cons.1 hbss
    obtain ⟨m, hm⟩ := feedAll_completes bs s
    have hpm : m.pend = false := (feedAll_pend hm).trans hp
    rw [List.map_cons, runInOrder_cons, exec_drainingTick hbs hp, List.flatten_cons, feedAll_append, hm, andThen_next,
      andThen_next, ih hpm hrest]

/-- Settles O35: with no request pending both sides are the drain of the concatenation. -/
theorem dividingAStreamAmongTicksDoesNotMatter : Obligations.DividingAStreamAmongTicksDoesNotMatter := by
  intro bss s hp hbss hne
  obtain ⟨bs, hmem⟩ := List.exists_mem_of_ne_nil bss hne
  have hflat : bss.flatten ≠ [] := fun h => hbss bs hmem (List.flatten_eq_nil_iff.1 h bs hmem)
  rw [runInOrder_drainingTicks hp hbss, exec_drainingTick hflat hp]

/-! ## The loop over the availability query (R53, R170) -/

/-- The state `s` with the bytes `r` waiting in the inbound stream. -/
def State.withRx (s : State) (r : List Byte) : State := { s with rx := r }

/-- A FEED does not look at the inbound stream. -/
theorem feed_withRx {b : Byte} {s t : State} (h : feed b s = .next t) (r : List Byte) :
    feed b (s.withRx r) = .next (t.withRx r) := by
  rcases feed_cases b s with ⟨hwo, e⟩ | ⟨hwo, hb, e⟩ | ⟨hwo, hb, e⟩ | ⟨hwo, rfl, e⟩ | ⟨hwo, hb, e⟩ <;>
    (rw [e] at h; cases h)
  · exact (feed_eq_store (s := s.withRx r) b hwo).trans (execFeedStore_next b _ hwo)
  · exact (feed_eq_check (s := s.withRx r) b hwo).trans (execFeedCheck_match b _ hwo hb)
  · exact (feed_eq_check (s := s.withRx r) b hwo).trans (execFeedCheck_mismatch b _ hwo hb)
  · exact (feed_eq_hdr (s := s.withRx r) hwo).trans (execFeedHdr_next _ hwo)
  · exact (feed_eq_resync (s := s.withRx r) hwo hb).trans (execFeedResync_next b _ hwo hb)

/-- The loop reads and feeds every waiting byte, and leaves the inbound stream empty. -/
theorem drainLoop_withRx (bs : List Byte) (s : State) :
    drainLoop bs.length (s.withRx bs) = feedAll bs (s.withRx []) := by
  induction bs generalizing s with
  | nil => rfl
  | cons b rest ih =>
    obtain ⟨m, hm⟩ := feed_completes b s
    calc drainLoop (b :: rest).length (s.withRx (b :: rest))
        = andThen (feed b (s.withRx rest)) (drainLoop rest.length) := rfl
      _ = feedAll rest (m.withRx []) := by rw [feed_withRx hm, andThen_next, ih m]
      _ = feedAll (b :: rest) (s.withRx []) := by rw [feedAll_cons, feed_withRx hm, andThen_next]

theorem State.withRx_self {s : State} {r : List Byte} (h : s.rx = r) : s.withRx r = s := by
  subst h
  rfl

/-- Settles O30: the first query tells whether any byte waits, and the loop over the query is the drain. -/
theorem pollLoopAgreesWithTick : Obligations.PollLoopAgreesWithTick := by
  intro s
  have hbody : (if s.rxAvail then drainLoop s.rx.length s else advance s) =
      if s.rx = [] then advance (s.withRx []) else feedAll s.rx (s.withRx []) := by
    by_cases hrx : s.rx = []
    · simp [State.rxAvail, hrx, State.withRx_self hrx]
    · have hdrain := drainLoop_withRx s.rx s
      rw [State.withRx_self rfl] at hdrain
      simpa [State.rxAvail, hrx] using hdrain
  rw [pollTick, hbody]
  exact (execTick_eq s.rx (s.withRx [])).symm

/-! ## Strobes (R176) -/

/-- RESET and REQ, each if its strobe is asserted, do not look at the inbound stream and leave it as it is. -/
theorem runInOrder_resetReq (rst req : Bool) (bs : List Byte) (s : State) :
    ∃ t₁ t₂, (if rst then exec .reset s = .next t₁ else t₁ = s) ∧
      (if req then exec .req t₁ = .next t₂ else t₂ = t₁) ∧ t₂.rx = s.rx ∧
      ∀ r, runInOrder exec (decodeStrobes rst req false bs) (s.withRx r) = .next (t₂.withRx r) := by
  cases rst <;> cases req <;> exact ⟨_, _, rfl, rfl, rfl, fun _ => rfl⟩

/-- Settles O50: the step takes the tick's bytes from the inbound stream before RESET and REQ run, which makes no
difference to them. -/
theorem coincidentStrobesRunInOrder : Obligations.CoincidentStrobesRunInOrder := by
  intro s rst req tick rest h
  obtain ⟨t₁, t₂, hreset, hreq, hrx, hrun⟩ := runInOrder_resetReq rst req s.rx { s with stimuli := rest }
  have hstep := step_strobes h
  cases tick with
  | false =>
    have hsame : t₂.withRx s.rx = t₂ := State.withRx_self hrx
    exact ⟨t₁, t₂, t₂, hreset, hreq, rfl, hstep.trans ((hrun s.rx).trans (congrArg _ hsame))⟩
  | true =>
    obtain ⟨t₃, htick⟩ := execTick_completes s.rx (t₂.withRx [])
    have hsplit : decodeStrobes rst req true s.rx = decodeStrobes rst req false s.rx ++ [.tick s.rx] := by
      simp [decodeStrobes]
    refine ⟨t₁, t₂, t₃, hreset, hreq, htick, hstep.trans ?_⟩
    rw [hsplit, runInOrder_append]
    exact (congrArg (andThen · _) (hrun [])).trans ((runInOrder_singleton _ _ _).trans htick)

/-- Settles O51: an overlap is refused where the step takes it from the stimuli, before any operation runs. -/
theorem overlappingOperationIsRefused : Obligations.OverlappingOperationIsRefused := by
  intro s rest h
  simp [step, fetch, h]

end Sys2Proof.Machine
end

section
/-! PROOFS. No publish is torn (spec/70_reset_and_hazards.md R226): under HDR_IDLES_CURSOR the operations of a step compose to
one that leaves a group pending only while a header is awaited, with BUF as the last ChecksumOk left it. -/

namespace Sys2Proof.Machine

/-- From `s` to `t` outputs are only added, and in `t` no publish is torn: with HDR_IDLES_CURSOR true a group that is pending
without a ChecksumOk among the added outputs was pending in `s` already, over the same BUF. That it was pending lets the
relation compose along the operations of a step. -/
def NoPublishTornBetween (s t : State) : Prop :=
  NoTornPublish t ∧ t.params = s.params ∧ ∃ new, t.out = s.out ++ new ∧
    (s.params.hdrIdlesCursor = true → t.cur ≠ .idle → (∀ e g, .checksumOk e g ∉ eventsOf new) →
      s.cur ≠ .idle ∧ SameBuffer s t)

/-- Whatever is output, as long as neither WO nor BUF moves and no group becomes pending. -/
theorem NoPublishTornBetween.of_assembler_frame {s t : State} (hs : NoTornPublish s) (new : List Output)
    (hout : t.out = s.out ++ new) (hparams : t.params = s.params) (hwo : t.wo = s.wo) (hbuf : SameBuffer s t)
    (hcur : t.cur ≠ .idle → s.cur ≠ .idle) : NoPublishTornBetween s t := by
  refine ⟨fun hp ht => ?_, hparams, new, hout, fun _ ht _ => ⟨hcur ht, hbuf⟩⟩
  rw [hparams] at hp
  rw [hwo]
  exact hs hp (hcur ht)

theorem NoPublishTornBetween.refl {s : State} (hs : NoTornPublish s) : NoPublishTornBetween s s :=
  .of_assembler_frame hs [] (by simp) rfl rfl (fun _ => rfl) id

/-- Whatever moves, as long as no group is pending afterwards under HDR_IDLES_CURSOR. -/
theorem NoPublishTornBetween.of_idle {s t : State} (new : List Output) (hout : t.out = s.out ++ new)
    (hparams : t.params = s.params) (hidle : s.params.hdrIdlesCursor = true → t.cur = .idle) :
    NoPublishTornBetween s t := by
  refine ⟨fun hp ht => ?_, hparams, new, hout, fun hp ht _ => absurd (hidle hp) ht⟩
  rw [hparams] at hp
  exact absurd (hidle hp) ht

theorem NoPublishTornBetween.trans {s m t : State} (hsm : NoPublishTornBetween s m)
    (hmt : NoPublishTornBetween m t) : NoPublishTornBetween s t := by
  obtain ⟨-, hparams₁, new₁, hout₁, hheld₁⟩ := hsm
  obtain ⟨htorn, hparams₂, new₂, hout₂, hheld₂⟩ := hmt
  refine ⟨htorn, hparams₂.trans hparams₁, new₁ ++ new₂, by simp [hout₂, hout₁], fun hp ht hno => ?_⟩
  simp only [eventsOf_append, List.mem_append, not_or] at hno
  obtain ⟨hm, hbuf₂⟩ := hheld₂ (hparams₁ ▸ hp) ht fun e g => (hno e g).2
  obtain ⟨hs, hbuf₁⟩ := hheld₁ hp hm fun e g => (hno e g).1
  exact ⟨hs, fun a => (hbuf₂ a).trans (hbuf₁ a)⟩

/-- Of the five things a FEED can do, a store finds no group pending and a header idles the cursor; an accepted checksum
reports itself; the other two write no cell. -/
theorem feed_noPublishTornBetween {b : Byte} {s t : State} (hs : NoTornPublish s) (h : feed b s = .next t) :
    NoPublishTornBetween s t := by
  rcases feed_cases b s with ⟨hwo, e⟩ | ⟨-, -, e⟩ | ⟨-, -, e⟩ | ⟨-, -, e⟩ | ⟨-, -, e⟩ <;> (rw [e] at h; cases h)
  · refine .of_idle _ rfl rfl fun hp => ?_
    by_contra hcur
    have hawait := hs hp hcur
    omega
  · exact ⟨fun _ _ => le_rfl, rfl, _, rfl, fun _ _ hno => absurd List.mem_cons_self (hno b b)⟩
  · exact ⟨fun _ _ => le_rfl, rfl, _, rfl, fun _ hcur _ => ⟨hcur, fun _ => rfl⟩⟩
  · exact .of_idle _ rfl rfl fun hp => if_pos hp
  · exact .of_assembler_frame hs _ rfl rfl rfl (fun _ => rfl) id

/-- An ADVANCE reads BUF and writes nothing of the Assembler, and it leaves an idle cursor where it is. -/
theorem advance_noPublishTornBetween {s t : State} (hs : NoTornPublish s) (h : advance s = .next t) :
    NoPublishTornBetween s t := by
  obtain ⟨k, es, hadvance, -⟩ := advance_eq_published s
  cases hadvance.symm.trans h
  refine .of_assembler_frame hs _ rfl rfl rfl (fun _ => rfl) fun ht hidle => ht ?_
  exact congrArg Cursor.after hidle

theorem execTrig_noPublishTornBetween {s t : State} (hs : NoTornPublish s) (h : execTrig s = .next t) :
    NoPublishTornBetween s t := by
  rcases execTrig_cases s with ⟨-, e⟩ | ⟨-, e⟩ <;> (rw [e] at h; cases h)
  · exact .of_assembler_frame hs _ rfl rfl rfl (fun _ => rfl) id
  · exact .refl hs

theorem execReset_noPublishTornBetween {s t : State} (h : execReset s = .next t) : NoPublishTornBetween s t := by
  cases h
  exact .of_idle [] (by simp) rfl fun _ => rfl

theorem exec_noPublishTornBetween {i : Instr} {s t : State} (hs : NoTornPublish s) (h : exec i s = .next t) :
    NoPublishTornBetween s t :=
  exec_keeps (P := NoPublishTornBetween s)
    (fun _ _ _ hf hp => hp.trans (feed_noPublishTornBetween hp.1 hf))
    (fun _ _ ha hp => hp.trans (advance_noPublishTornBetween hp.1 ha))
    (fun _ _ ht hp => hp.trans (execTrig_noPublishTornBetween hp.1 ht))
    (fun _ hp => hp)
    (fun _ _ _ hr hp => hp.trans (execReset_noPublishTornBetween hr))
    h (.refl hs)

/-- The environment's acts touch neither the Assembler nor CUR, and the strobes' operations compose. -/
theorem step_noPublishTornBetween {s t : State} (hs : NoTornPublish s) (h : step s = .next t) :
    NoPublishTornBetween s t := by
  rcases step_cases h with ⟨-, rfl⟩ | ⟨bs, rest, -, rfl⟩ | ⟨c, rest, -, rfl⟩ | ⟨bs, rest, -, rfl⟩ |
    ⟨rst, req, tick, rest, -, hr⟩
  · exact .refl hs
  · exact .refl hs
  · exact .refl hs
  · exact .of_assembler_frame hs _ rfl rfl rfl (fun _ => rfl) id
  · exact runInOrder_keeps (P := NoPublishTornBetween s)
      (fun _ _ _ _ hi hp => hp.trans (exec_noPublishTornBetween hp.1 hi)) _ t hr
      (.refl hs)

/-- Settles O54: the relation that every operation of a step keeps. -/
theorem stepKeepsThatNoPublishIsTorn : Obligations.StepKeepsThatNoPublishIsTorn := by
  intro s t hs h
  obtain ⟨htorn, -, new, hout, hheld⟩ := step_noPublishTornBetween hs h
  exact ⟨htorn, new, hout, fun hp ht hno => (hheld hp ht hno).2⟩

end Sys2Proof.Machine
end

section
/-! PROOFS. Reset and hazards (spec/70_reset_and_hazards.md): RESET and the reset state (R220), the frame of every operation
(R34), any number of empty and of non-empty ticks (R228, R230), and the free values an ADVANCE draws (R222, R231). -/

namespace Sys2Proof.Machine

/-! ## RESET and the reset state (R33, R220) -/

/-- Settles O31: the state of `execReset`, whose buffer is the empty list. -/
theorem resetRestoresTheInitialState : Obligations.ResetRestoresTheInitialState := fun _ =>
  ⟨_, rfl, rfl, rfl, rfl, fun _ => rfl, rfl, rfl, rfl, rfl, rfl⟩

theorem State.reset_inv : Inv State.reset :=
  ⟨⟨by decide, by decide⟩, fun hwo => absurd hwo (by decide), fun hcur => absurd rfl hcur, ⟨rfl, .inl rfl⟩,
    State.reset_buf_wf⟩

/-- Settles O52: at reset a header is awaited, no group is pending and no cell is written. -/
theorem resetStateMeetsTheInvariants : Obligations.ResetStateMeetsTheInvariants :=
  ⟨State.reset_inv, fun _ hcur => absurd rfl hcur⟩

/-! ## The surroundings (R28, R34) -/

theorem SameSurroundings.trans {s m t : State} (hsm : SameSurroundings s m) (hmt : SameSurroundings m t) :
    SameSurroundings s t := by
  obtain ⟨hparams₁, hcfg₁, hrx₁, hstimuli₁⟩ := hsm
  obtain ⟨hparams₂, hcfg₂, hrx₂, hstimuli₂⟩ := hmt
  exact ⟨hparams₂.trans hparams₁, hcfg₂.trans hcfg₁, hrx₂.trans hrx₁, hstimuli₂.trans hstimuli₁⟩

theorem feed_sameSurroundings {b : Byte} {s t : State} (h : feed b s = .next t) : SameSurroundings s t := by
  obtain ⟨-, hparams, hcfg, hrx, hstimuli, -, -⟩ := feed_frame h
  exact ⟨hparams, hcfg, hrx, hstimuli⟩

theorem advance_sameSurroundings {s t : State} (h : advance s = .next t) : SameSurroundings s t := by
  obtain ⟨k, es, hadvance, -⟩ := advance_eq_published s
  cases hadvance.symm.trans h
  exact ⟨rfl, rfl, rfl, rfl⟩

theorem execTrig_sameSurroundings {s t : State} (h : execTrig s = .next t) : SameSurroundings s t := by
  rcases execTrig_cases s with ⟨-, e⟩ | ⟨-, e⟩ <;> (rw [e] at h; cases h; exact ⟨rfl, rfl, rfl, rfl⟩)

theorem execReset_sameSurroundings {s t : State} (h : execReset s = .next t) : SameSurroundings s t := by
  cases h
  exact ⟨rfl, rfl, rfl, rfl⟩

/-- Settles O34: each operation the dispatch runs leaves the surroundings, so they are kept from the first state on. -/
theorem noOperationTouchesItsSurroundings : Obligations.NoOperationTouchesItsSurroundings := fun _ s _ h =>
  exec_keeps (P := SameSurroundings s)
    (fun _ _ _ hf hp => hp.trans (feed_sameSurroundings hf))
    (fun _ _ ha hp => hp.trans (advance_sameSurroundings ha))
    (fun _ _ ht hp => hp.trans (execTrig_sameSurroundings ht))
    (fun _ hp => hp)
    (fun _ _ _ hr hp => hp.trans (execReset_sameSurroundings hr))
    h ⟨rfl, rfl, rfl, rfl⟩

/-! ## Any number of ticks (R228, R230) -/

theorem runInOrder_ticks_completes (bss : List (List Byte)) (s : State) :
    ∃ t, runInOrder exec (bss.map Instr.tick) s = .next t := by
  induction bss generalizing s with
  | nil => exact ⟨s, rfl⟩
  | cons bs rest ih =>
    obtain ⟨m, hm⟩ := execTick_completes bs s
    have htick : exec (.tick bs) s = .next m := hm
    rw [List.map_cons, runInOrder_cons, htick]
    exact ih m

/-- Settles O41: a tick over at least one byte emits no group. -/
theorem inputAtEveryTickStarvesThePublisher : Obligations.InputAtEveryTickStarvesThePublisher := by
  intro bss s hbss
  obtain ⟨t, ht⟩ := runInOrder_ticks_completes bss s
  refine ⟨t, ht, runInOrder_keeps (P := fun u => emissionsOf u.out = emissionsOf s.out) ?_ s t ht rfl⟩
  intro i hi u v hexec hu
  obtain ⟨bs, hmem, rfl⟩ := List.mem_map.1 hi
  obtain ⟨new, hout, -, -, hnone⟩ := tickNeverDrainsAndPublishes bs u v hexec
  rw [hout, emissionsOf_append, hnone (hbss bs hmem), List.append_nil, hu]

/-- From `s` to `t` the Frame Assembler stood still: WO, CSUM and every cell of BUF are as before. -/
def SameAssembler (s t : State) : Prop := t.wo = s.wo ∧ t.csum = s.csum ∧ SameBuffer s t

theorem SameAssembler.trans {s m t : State} (hsm : SameAssembler s m) (hmt : SameAssembler m t) : SameAssembler s t := by
  obtain ⟨hwo₁, hcsum₁, hbuf₁⟩ := hsm
  obtain ⟨hwo₂, hcsum₂, hbuf₂⟩ := hmt
  exact ⟨hwo₂.trans hwo₁, hcsum₂.trans hcsum₁, fun a => (hbuf₂ a).trans (hbuf₁ a)⟩

theorem execTrig_sameAssembler {s t : State} (h : execTrig s = .next t) : SameAssembler s t := by
  rcases execTrig_cases s with ⟨-, e⟩ | ⟨-, e⟩ <;> (rw [e] at h; cases h; exact ⟨rfl, rfl, fun _ => rfl⟩)

/-- An empty tick is an ADVANCE and TRIG, and neither is of the Assembler. -/
theorem exec_emptyTick_sameAssembler {s t : State} (h : exec (.tick []) s = .next t) : SameAssembler s t := by
  obtain ⟨m, hadvance, htrig⟩ := andThen_eq_next (r := advance s) h
  obtain ⟨k, es, hpublished, -⟩ := advance_eq_published s
  cases hpublished.symm.trans hadvance
  have hm : SameAssembler s (s.published s.cur.after k es) := ⟨rfl, rfl, fun _ => rfl⟩
  exact hm.trans (execTrig_sameAssembler htrig)

/-- Settles O40: each of the ticks leaves the Assembler where it is, whatever WO is. -/
theorem emptyTicksNeverAbandonAPacket : Obligations.EmptyTicksNeverAbandonAPacket := by
  intro k s _
  obtain ⟨t, ht⟩ := runInOrder_ticks_completes (List.replicate k []) s
  rw [List.map_replicate] at ht
  refine ⟨t, ht, runInOrder_keeps (P := SameAssembler s) ?_ s t ht ⟨rfl, rfl, fun _ => rfl⟩⟩
  intro i hi u v hexec hu
  cases List.eq_of_mem_replicate hi
  exact hu.trans (exec_emptyTick_sameAssembler hexec)

/-! ## Free values (R134, R222, R231) -/

@[simp] theorem State.publish_draws (s : State) (g : Bool) (raw n : Int) (d : FloatVal) :
    (s.publish g raw n d).2.draws = s.draws + if g then drawsFor d else 0 := by
  cases g <;> rfl

theorem drawsFor_of_usableReference {d : FloatVal} (h : usableReference d = true) : drawsFor d = 0 := by
  cases d with
  | finite q => exact drawsFor_finite (bne_iff_ne.1 h)
  | infinity negative => cases h
  | nan => cases h

theorem drawsFor_intCast (z : Int) : drawsFor (.finite (z : Rat)) = if z = 0 then 1 else 0 := by
  simp [drawsFor]

theorem execPubG0_draws {s t : State} (hc : usableReference s.cfg.iRef = true) (hp : usableReference s.cfg.pRef = true)
    (h : execPubG0 s = .next t) : t.draws = s.draws := by
  rw [execPubG0, if_pos (execPubG0_selected h)] at h
  cases h
  simp [drawsFor_of_usableReference hc, drawsFor_of_usableReference hp]

theorem execPubG1_draws {s t : State} (hv : usableReference s.cfg.vRef = true) (h : execPubG1 s = .next t) :
    t.draws = s.draws + if s.cfg.attFrequency = true ∧ unsignedField s 10 = 0 then 1 else 0 := by
  rw [execPubG1, if_pos (execPubG1_selected h)] at h
  cases h
  simp [drawsFor_of_usableReference hv, drawsFor_intCast, s.u24_eq_unsignedField, ite_and]

theorem execPubG2_draws {s t : State} (he : usableReference s.cfg.eRef = true) (h : execPubG2 s = .next t) :
    t.draws = s.draws := by
  rw [execPubG2, if_pos (execPubG2_selected h)] at h
  cases h
  simp [drawsFor_of_usableReference he]

/-- Settles O21: the four references draw nothing, and the raw period is the only other divisor. -/
theorem usableReferencesDrawNothing : Obligations.UsableReferencesDrawNothing := by
  intro s t hcfg h
  obtain ⟨hcurrent, hvoltage, hpower, henergy⟩ := hcfg
  cases hcur : s.cur with
  | awaitingGroup0 =>
    rw [advance, hcur] at h
    simpa using execPubG0_draws hcurrent hpower h
  | awaitingGroup1 =>
    rw [advance, hcur] at h
    simpa using execPubG1_draws hvoltage h
  | awaitingGroup2 =>
    rw [advance, hcur] at h
    simpa using execPubG2_draws henergy h
  | idle =>
    rw [advance, hcur] at h
    cases (execPubIdle_next s hcur).symm.trans h
    simp

end Sys2Proof.Machine
end

section
/-! PROOFS. The invariant of R32 (spec/10_state.md section 6) along a step: how the write of one cell moves each of its parts,
and the operations, of which only a FEED writes a cell. -/

namespace Sys2Proof.Machine

/-! ## The parts of the invariant under a write (R111, R113) -/

/-- A written cell stays written. -/
theorem Memory.isSome_find_write {m : Memory} {b : Nat} (a : Nat) (v : Byte) (h : (m.find b).isSome = true) :
    ((m.write a v).find b).isSome = true := by
  rw [Memory.find_write]
  split_ifs
  · rfl
  · exact h

theorem PublishReadsWritten.of_write {s t : State} {k : Nat} {v : Byte} (h : PublishReadsWritten s)
    (hbuf : t.buf = s.buf.write k v) (hcur : t.cur ≠ .idle → s.cur ≠ .idle) : PublishReadsWritten t := by
  intro ht a ha
  rw [hbuf]
  exact Memory.isSome_find_write k v (h (hcur ht) a ha)

theorem FixedCells.of_write {s t : State} {k : Nat} {v : Byte} (h : FixedCells s) (hbuf : t.buf = s.buf.write k v)
    (hk : k < 16) (hv : k = 0 → v = 0x55) : FixedCells t := by
  obtain ⟨hlast, hfirst⟩ := h
  rw [FixedCells, hbuf, Memory.find_write_other _ (by omega)]
  refine ⟨hlast, ?_⟩
  rw [Memory.find_write]
  split_ifs with hzero
  · exact .inr (congrArg some (hv hzero))
  · exact hfirst

theorem packetSum_concat (body : List Byte) (b : Byte) : packetSum (body ++ [b]) = packetSum body + b := by
  simp [packetSum]

/-- The stored byte is the next summand of CSUM, and the cells below it read as before. -/
theorem PacketInProgress.of_store {s t : State} {b : Byte} (h : PacketInProgress s) (hpos : 1 ≤ s.wo.toNat)
    (hlt : s.wo.toNat < 16) (hwo : t.wo = s.wo + 1) (hcsum : t.csum = s.csum + b)
    (hbuf : t.buf = s.buf.write s.wo.toNat b) (hresets : t.resets = s.resets) : PacketInProgress t := by
  intro _
  obtain ⟨hfirst, hwritten, hsum⟩ := h (by omega)
  have hcell (a : Nat) : t.cell a = (s.writeCell s.wo.toNat b).cell a :=
    (s.writeCell s.wo.toNat b).cell_congr hbuf hresets a
  have hbelow : (List.range s.wo.toNat).map t.cell = (List.range s.wo.toNat).map s.cell :=
    List.map_congr_left fun a ha => (hcell a).trans (s.cell_writeCell_other (List.mem_range.1 ha).ne' b)
  rw [hbuf, hwo, s.toNat_wo_add_one hlt, hcsum]
  refine ⟨?_, fun a ha => ?_, ?_⟩
  · rwa [Memory.find_write_other _ (by omega)]
  · rcases Nat.lt_succ_iff_lt_or_eq.1 ha with hold | rfl
    · exact Memory.isSome_find_write _ b (hwritten a hold)
    · rw [Memory.find_write_same]
      rfl
  · rw [List.range_succ, List.map_append, hbelow, List.map_singleton, packetSum_concat, ← hsum, hcell,
      s.cell_writeCell_same]

/-- The seed of CSUM is the sum of the command byte and the header alone. -/
theorem PacketInProgress.of_header {t : State} (hwo : t.wo = 1) (hcsum : t.csum = Config.seed)
    (hfind : t.buf.find 0 = some 0x55) : PacketInProgress t := by
  have hcell : t.cell 0 = 0x55 := by rw [State.cell, hfind, Option.getD_some]
  have hone : t.wo.toNat = 1 := congrArg BitVec.toNat hwo
  intro _
  rw [hone]
  refine ⟨hfind, fun a ha => ?_, ?_⟩
  · rw [Nat.lt_one_iff.1 ha, hfind]
    rfl
  · rw [hcsum, List.range_one, List.map_singleton, hcell]
    rfl

theorem WoInRange.of_wo {t : State} {w : BitVec 5} (hwo : t.wo = w) (hw : 1 ≤ w.toNat ∧ w.toNat ≤ 17) : WoInRange t := by
  rwa [WoInRange, hwo]

theorem PacketInProgress.of_await {t : State} (hwo : t.wo = 17) : PacketInProgress t := by
  intro h
  simp [hwo] at h

/-! ## The operations (R111 to R114, R137 to R140, R161, R220) -/

/-- A store fills the next cell of the packet; an accepted checksum finds the fill region written; a header starts the packet
afresh; the other two write no cell. -/
theorem feed_keeps_inv {b : Byte} {s t : State} (h : feed b s = .next t) (hs : Inv s) : Inv t := by
  obtain ⟨hrange, hprogress, hpublish, hfixed, hwf⟩ := hs
  rcases feed_cases b s with ⟨hwo, e⟩ | ⟨hwo, -, e⟩ | ⟨-, -, e⟩ | ⟨-, -, e⟩ | ⟨-, -, e⟩ <;> (rw [e] at h; cases h)
  · obtain ⟨hpos, -⟩ := hrange
    have hnext : (s.wo + 1).toNat = s.wo.toNat + 1 := s.toNat_wo_add_one hwo
    exact ⟨⟨hnext ▸ by omega, hnext ▸ by omega⟩, hprogress.of_store hpos hwo rfl rfl rfl rfl, hpublish.of_write rfl id,
      hfixed.of_write rfl hwo (by omega), Memory.wf_write _ b (hwo.trans (by decide)) hwf⟩
  · have hfull : s.wo.toNat = 16 := congrArg BitVec.toNat hwo
    obtain ⟨-, hwritten, -⟩ := hprogress hfull.le
    exact ⟨.of_wo (w := 17) rfl (by decide), .of_await rfl, fun _ a ha => hwritten a (ha.trans_eq hfull.symm), hfixed, hwf⟩
  · exact ⟨.of_wo (w := 17) rfl (by decide), .of_await rfl, hpublish, hfixed, hwf⟩
  · refine ⟨.of_wo (w := 1) rfl (by decide), .of_header rfl rfl (Memory.find_write_same _ 0 _),
      hpublish.of_write rfl fun ht hidle => ht ?_, hfixed.of_write rfl (by decide) fun _ => rfl,
      Memory.wf_write _ _ (by decide) hwf⟩
    simp [hidle]
  · exact ⟨hrange, hprogress, hpublish, hfixed, hwf⟩

/-- An ADVANCE writes nothing of the Assembler, and it leaves an idle cursor where it is. -/
theorem advance_keeps_inv {s t : State} (h : advance s = .next t) (hs : Inv s) : Inv t := by
  obtain ⟨hrange, hprogress, hpublish, hfixed, hwf⟩ := hs
  obtain ⟨k, es, hadvance, -⟩ := advance_eq_published s
  cases hadvance.symm.trans h
  exact ⟨hrange, hprogress, fun ht => hpublish fun hidle => ht (congrArg Cursor.after hidle), hfixed, hwf⟩

theorem execTrig_keeps_inv {s t : State} (h : execTrig s = .next t) (hs : Inv s) : Inv t := by
  rcases execTrig_cases s with ⟨-, e⟩ | ⟨-, e⟩ <;> (rw [e] at h; cases h; exact hs)

/-- RESET establishes the invariant, whatever held before. -/
theorem execReset_inv {s t : State} (h : execReset s = .next t) : Inv t := by
  cases h
  exact ⟨.of_wo (w := 17) rfl (by decide), .of_await rfl, fun hcur => absurd rfl hcur, ⟨rfl, .inl rfl⟩, Memory.wf_nil⟩

/-- Settles O53: each operation of a step keeps the invariant, which says nothing about PEND, the surroundings and the
outputs. -/
theorem stepKeepsTheInvariant : Obligations.StepKeepsTheInvariant := fun s t hs h =>
  step_keeps (P := Inv) (fun _ _ _ => feed_keeps_inv) (fun _ _ => advance_keeps_inv) (fun _ _ => execTrig_keeps_inv)
    (fun _ hp => hp) (fun _ _ hr _ => execReset_inv hr) (fun _ _ _ _ _ hp => hp) s t h hs

end Sys2Proof.Machine
end

section
/-! PROOFS. The contents that RESET leaves unspecified are never observed (spec/10_state.md R32 items 3 to 5, U1): one state
run beside itself with other contents of CSUM and BUF, an operation at a time. -/

namespace Sys2Proof.Machine

/-! ## One state with other contents of CSUM and BUF -/

/-- The state `s` with other contents of CSUM and of BUF, and another count of RESETs, which picks the unwritten cells. -/
def State.withContents (s : State) (csum : Byte) (buf : Memory) (resets : Nat) : State :=
  { s with csum := csum, buf := buf, resets := resets }

/-- The last two clauses of `SameToObserver`: the contents agree wherever an operation may read them. -/
def SameReadable (s t : State) : Prop :=
  (s.wo.toNat ≤ 16 → s.csum = t.csum ∧ ∀ a, a < s.wo.toNat → s.cell a = t.cell a) ∧
  (s.cur ≠ .idle → ∀ a, a < 16 → s.cell a = t.cell a)

theorem sameToObserver_iff {s t : State} :
    SameToObserver s t ↔ (∃ c m r, t = s.withContents c m r) ∧ SameReadable s t := by
  constructor
  · rintro ⟨hwo, hcur, hpend, ⟨hparams, hcfg, hrx, hstimuli⟩, hout, hdraws, hreadable⟩
    refine ⟨⟨t.csum, t.buf, t.resets, ?_⟩, hreadable⟩
    cases t
    simp_all [State.withContents]
  · rintro ⟨⟨c, m, r, rfl⟩, hreadable⟩
    exact ⟨rfl, rfl, rfl, ⟨rfl, rfl, rfl, rfl⟩, rfl, rfl, hreadable⟩

theorem sameToObserver_of_withContents {s t : State} {c : Byte} {m : Memory} {r : Nat} (ht : t = s.withContents c m r)
    (h : SameReadable s t) : SameToObserver s t :=
  sameToObserver_iff.2 ⟨⟨c, m, r, ht⟩, h⟩

/-- While a header is awaited only the fields of a pending group are readable. -/
theorem SameReadable.of_await {s t : State} (hwo : s.wo = 17)
    (hpending : s.cur ≠ .idle → ∀ a, a < 16 → s.cell a = t.cell a) : SameReadable s t :=
  ⟨fun h => absurd h (by simp [hwo]), hpending⟩

theorem State.cell_writeCell_congr {s t : State} {a k : Nat} (v : Byte) (h : a ≠ k → s.cell a = t.cell a) :
    (s.writeCell k v).cell a = (t.writeCell k v).cell a := by
  rw [State.cell_writeCell, State.cell_writeCell]
  split_ifs with hk
  · rfl
  · exact h (Ne.symm hk)

/-! ## Operations that keep the agreement -/

/-- Run on two states that agree for an observer, `f` answers on the second where it answers on the first, and the two answers
agree. -/
def KeepsSameToObserver (f : State → Result) : Prop :=
  ∀ s₁ s₂ t₁ : State, SameToObserver s₁ s₂ → f s₁ = .next t₁ → ∃ t₂, f s₂ = .next t₂ ∧ SameToObserver t₁ t₂

theorem KeepsSameToObserver.andThen {f g : State → Result} (hf : KeepsSameToObserver f) (hg : KeepsSameToObserver g) :
    KeepsSameToObserver fun s => Machine.andThen (f s) g := by
  intro s₁ s₂ t₁ hs h
  obtain ⟨m₁, hf₁, hg₁⟩ := andThen_eq_next h
  obtain ⟨m₂, hf₂, hm⟩ := hf s₁ s₂ m₁ hs hf₁
  obtain ⟨t₂, hg₂, ht⟩ := hg m₁ m₂ t₁ hm hg₁
  exact ⟨t₂, (congrArg (Machine.andThen · g) hf₂).trans hg₂, ht⟩

theorem keepsSameToObserver_next : KeepsSameToObserver .next := by
  intro s₁ s₂ t₁ hs h
  cases h
  exact ⟨s₂, rfl, hs⟩

theorem keepsSameToObserver_runInOrder {run : Instr → State → Result} {is : List Instr}
    (h : ∀ i ∈ is, KeepsSameToObserver (run i)) : KeepsSameToObserver (runInOrder run is) := by
  induction is with
  | nil => exact keepsSameToObserver_next
  | cons i rest ih => exact (h i List.mem_cons_self).andThen (ih fun j hj => h j (List.mem_cons_of_mem _ hj))

/-! ## FEED (R111 to R114) -/

/-- A store and a header write the same byte in both states; the checksum is compared only with a packet in full, whose cells
then agree. -/
theorem keepsSameToObserver_feed (b : Byte) : KeepsSameToObserver (feed b) := by
  intro s₁ s₂ t₁ hs h
  obtain ⟨⟨c, m, r, rfl⟩, hprogress, hpending⟩ := sameToObserver_iff.1 hs
  rcases feed_cases b s₁ with ⟨hwo, e⟩ | ⟨hwo, hb, e⟩ | ⟨hwo, hb, e⟩ | ⟨hwo, rfl, e⟩ | ⟨hwo, hb, e⟩ <;>
    (rw [e] at h; cases h)
  · have hwo₂ : (s₁.withContents c m r).wo.toNat < 16 := hwo
    obtain ⟨hcsum, hcells⟩ := hprogress hwo.le
    refine ⟨_, (feed_eq_store b hwo₂).trans (execFeedStore_next b _ hwo₂), sameToObserver_of_withContents rfl
      ⟨fun _ => ⟨congrArg (· + b) hcsum, fun a ha => State.cell_writeCell_congr b fun hne => hcells a ?_⟩,
        fun hcur a ha => State.cell_writeCell_congr b fun _ => hpending hcur a ha⟩⟩
    have hle : a < s₁.wo.toNat + 1 := s₁.toNat_wo_add_one hwo ▸ ha
    omega
  · have hwo₂ : (s₁.withContents c m r).wo = 16 := hwo
    have hfull : s₁.wo.toNat = 16 := congrArg BitVec.toNat hwo
    obtain ⟨rfl, hcells⟩ := hprogress hfull.le
    exact ⟨_, (feed_eq_check b hwo₂).trans (execFeedCheck_match b _ hwo₂ hb), sameToObserver_of_withContents rfl
      (.of_await rfl fun _ a ha => hcells a (ha.trans_eq hfull.symm))⟩
  · have hwo₂ : (s₁.withContents c m r).wo = 16 := hwo
    have hfull : s₁.wo.toNat = 16 := congrArg BitVec.toNat hwo
    obtain ⟨rfl, -⟩ := hprogress hfull.le
    exact ⟨_, (feed_eq_check b hwo₂).trans (execFeedCheck_mismatch b _ hwo₂ hb), sameToObserver_of_withContents rfl
      (.of_await rfl hpending)⟩
  · have hwo₂ : 17 ≤ (s₁.withContents c m r).wo.toNat := hwo
    refine ⟨_, (feed_eq_hdr hwo₂).trans (execFeedHdr_next _ hwo₂), sameToObserver_of_withContents rfl
      ⟨fun _ => ⟨rfl, fun a ha => State.cell_writeCell_congr _ fun hne => absurd (Nat.lt_one_iff.1 ha) hne⟩,
        fun hcur a ha => State.cell_writeCell_congr _ fun _ => hpending (fun hidle => hcur ?_) a ha⟩⟩
    simp [hidle]
  · have hwo₂ : 17 ≤ (s₁.withContents c m r).wo.toNat := hwo
    exact ⟨_, (feed_eq_resync hwo₂ hb).trans (execFeedResync_next b _ hwo₂ hb), sameToObserver_of_withContents rfl
      ⟨hprogress, hpending⟩⟩

theorem keepsSameToObserver_feedAll (bs : List Byte) : KeepsSameToObserver (feedAll bs) := by
  induction bs with
  | nil => exact keepsSameToObserver_next
  | cons b rest ih => exact (keepsSameToObserver_feed b).andThen ih

/-! ## ADVANCE (R136 to R140) -/

theorem State.publish_withContents (s : State) (c : Byte) (m : Memory) (r : Nat) (g : Bool) (raw n : Int) (d : FloatVal) :
    (s.withContents c m r).publish g raw n d =
      ((s.publish g raw n d).1, (s.publish g raw n d).2.withContents c m r) := by
  cases g <;> rfl

theorem State.emitGroup_withContents (s : State) (c : Byte) (m : Memory) (r : Nat) (cur : Cursor) (g : Bool) (e : Emission) :
    ({ s.withContents c m r with cur := cur }).emitGroup g e =
      (({ s with cur := cur }).emitGroup g e).withContents c m r := by
  cases g <;> rfl

/-- A field of the packet lies inside the fill region, so agreement there is enough. -/
theorem State.field_eq_of_cells {s t : State} (h : ∀ a, a < 16 → s.cell a = t.cell a) {a : Nat} (ha : a + 2 < 16) :
    s.field a = t.field a := by
  rw [State.field, State.field, h a (by omega), h (a + 1) (by omega), h (a + 2) ha]

/-- An ADVANCE reads the fields of a pending group and nothing else of the contents, and it carries the contents along. -/
theorem advance_withContents {s t : State} {c : Byte} {m : Memory} {r : Nat}
    (hcells : s.cur ≠ .idle → ∀ a, a < 16 → s.cell a = (s.withContents c m r).cell a) (h : advance s = .next t) :
    advance (s.withContents c m r) = .next (t.withContents c m r) := by
  have hcur₂ : (s.withContents c m r).cur = s.cur := rfl
  have hfield (hpending : s.cur ≠ .idle) (a : Nat) (ha : a + 2 < 16) : (s.withContents c m r).field a = s.field a :=
    (State.field_eq_of_cells (hcells hpending) ha).symm
  rw [advance] at h
  rw [advance, hcur₂]
  cases hcur : s.cur with
  | awaitingGroup0 =>
    have hread := hfield (by simp [hcur])
    simp (disch := decide) only [hcur, hcur₂, execPubG0, reduceIte, State.u24, State.s24, hread,
      State.publish_withContents] at h ⊢
    cases h
    exact congrArg _ (State.emitGroup_withContents _ c m r _ _ _)
  | awaitingGroup1 =>
    have hread := hfield (by simp [hcur])
    simp (disch := decide) only [hcur, hcur₂, execPubG1, reduceIte, State.u24, hread,
      State.publish_withContents] at h ⊢
    cases h
    exact congrArg _ (State.emitGroup_withContents _ c m r _ _ _)
  | awaitingGroup2 =>
    have hread := hfield (by simp [hcur])
    simp (disch := decide) only [hcur, hcur₂, execPubG2, reduceIte, State.u24, hread,
      State.publish_withContents] at h ⊢
    cases h
    exact congrArg _ (State.emitGroup_withContents _ c m r _ _ _)
  | idle =>
    rw [hcur] at h
    cases (execPubIdle_next s hcur).symm.trans h
    exact execPubIdle_next _ hcur

theorem keepsSameToObserver_advance : KeepsSameToObserver advance := by
  intro s₁ s₂ t₁ hs h
  obtain ⟨⟨c, m, r, rfl⟩, hprogress, hpending⟩ := sameToObserver_iff.1 hs
  refine ⟨_, advance_withContents hpending h, sameToObserver_of_withContents rfl ?_⟩
  obtain ⟨k, es, hadvance, -⟩ := advance_eq_published s₁
  cases hadvance.symm.trans h
  exact ⟨hprogress, fun hcur => hpending fun hidle => hcur (congrArg Cursor.after hidle)⟩

/-! ## TRIG, TICK, REQ and RESET (R160, R161, R171, R220) -/

theorem keepsSameToObserver_execTrig : KeepsSameToObserver execTrig := by
  intro s₁ s₂ t₁ hs h
  obtain ⟨⟨c, m, r, rfl⟩, hreadable⟩ := sameToObserver_iff.1 hs
  rcases execTrig_cases s₁ with ⟨hpend, e⟩ | ⟨hpend, e⟩ <;> (rw [e] at h; cases h)
  · exact ⟨_, if_pos hpend, sameToObserver_of_withContents rfl hreadable⟩
  · exact ⟨_, if_neg (ne_true_of_eq_false hpend), hs⟩

theorem keepsSameToObserver_execTick (bs : List Byte) : KeepsSameToObserver (execTick bs) := by
  cases bs with
  | nil => exact keepsSameToObserver_advance.andThen keepsSameToObserver_execTrig
  | cons b rest => exact (keepsSameToObserver_feedAll (b :: rest)).andThen keepsSameToObserver_execTrig

theorem keepsSameToObserver_execReq : KeepsSameToObserver execReq := by
  intro s₁ s₂ t₁ hs h
  obtain ⟨⟨c, m, r, rfl⟩, hreadable⟩ := sameToObserver_iff.1 hs
  cases h
  exact ⟨_, rfl, sameToObserver_of_withContents rfl hreadable⟩

/-- RESET makes all contents unspecified, and none of them readable. -/
theorem keepsSameToObserver_execReset : KeepsSameToObserver execReset := by
  intro s₁ s₂ t₁ hs h
  obtain ⟨⟨c, m, r, rfl⟩, -⟩ := sameToObserver_iff.1 hs
  cases h
  exact ⟨_, rfl, sameToObserver_of_withContents rfl (.of_await rfl fun hcur => absurd rfl hcur)⟩

/-! ## A step -/

theorem keepsSameToObserver_strobes (rst req tick : Bool) (bs : List Byte) :
    KeepsSameToObserver (runInOrder exec (decodeStrobes rst req tick bs)) := by
  refine keepsSameToObserver_runInOrder fun i hi => ?_
  rcases mem_decodeStrobes hi with rfl | rfl | rfl
  · exact keepsSameToObserver_execReset
  · exact keepsSameToObserver_execReq
  · exact keepsSameToObserver_execTick bs

/-- Settles O56: the stimuli and the waiting bytes agree, so both steps do the same, and it keeps the agreement: an act of the
environment touches no contents, and the strobes run the operations above. -/
theorem unspecifiedContentsAreNeverObserved : Obligations.UnspecifiedContentsAreNeverObserved := by
  intro s₁ s₂ t₁ hs h
  obtain ⟨⟨c, m, r, rfl⟩, hreadable⟩ := sameToObserver_iff.1 hs
  rcases step_cases h with ⟨hst, rfl⟩ | ⟨bs, rest, hst, rfl⟩ | ⟨cfg, rest, hst, rfl⟩ | ⟨bs, rest, hst, rfl⟩ |
    ⟨rst, req, tick, rest, hst, hr⟩
  · exact ⟨_, step_noStimulus hst, hs⟩
  · exact ⟨_, step_arrive hst, sameToObserver_of_withContents rfl hreadable⟩
  · exact ⟨_, step_configure hst, sameToObserver_of_withContents rfl hreadable⟩
  · exact ⟨_, step_foreignTx hst, sameToObserver_of_withContents rfl hreadable⟩
  · have hrun : SameToObserver { s₁ with stimuli := rest, rx := if tick then [] else s₁.rx }
        { s₁.withContents c m r with stimuli := rest, rx := if tick then [] else s₁.rx } :=
      sameToObserver_of_withContents rfl hreadable
    obtain ⟨t₂, ht₂, ht⟩ := keepsSameToObserver_strobes rst req tick s₁.rx _ _ t₁ hrun hr
    exact ⟨t₂, (step_strobes (s := s₁.withContents c m r) hst).trans ht₂, ht⟩

end Sys2Proof.Machine
end
